-- ==== Sys2Proof/Word.lean ====
section
/-!
DEFINITION. The plain types of the CORE: a byte, a 32-bit word, a 16-byte block, a 12-byte nonce.

A register the spec calls a byte string (00_scope.md section 5.2, R49) is held as one bit vector whose byte 0 is the most
significant byte: written as a hexadecimal literal it reads exactly as the spec writes the byte string, first byte leftmost.
-/

namespace Sys2Proof

/-- One byte; bit 7 is its most significant bit (00_scope.md section 5.1). -/
abbrev Byte := BitVec 8

/-- A 32-bit word (00_scope.md section 5.1). -/
abbrev Word := BitVec 32

/-- A block: exactly 16 bytes, byte 0 the most significant byte of the bit vector (00_scope.md section 5.2). -/
abbrev Block := BitVec 128

/-- A nonce: exactly 12 bytes, byte 0 the most significant byte of the bit vector (R28). -/
abbrev Nonce := BitVec 96

end Sys2Proof
end

