-- ==== Sys2Proof/Syntax.lean ====
section
/-!
DEFINITION. The seven commands of the CORE (R183), one constructor per row of spec/opcode_table.json. No command carries an
operand, an immediate or a register field: every operand is a fixed register or buffer range (R184).
-/

namespace Sys2Proof

/-- A command of the CORE (R183). -/
inductive Instr where
  /-- KEYEXP, the key schedule (R72). -/
  | keyexp
  /-- BLKENC, the forward transform of one block (R80). -/
  | blkenc
  /-- GFMUL, the product of two field elements (R89). -/
  | gfmul
  /-- GHASH, the authentication accumulator over AAD, data and the length block (R98). -/
  | ghash
  /-- CTRXOR, the counter-mode pass (R106). -/
  | ctrxor
  /-- AEADENC, encrypt and authenticate (R116). -/
  | aeadenc
  /-- AEADDEC, verify and then decrypt (R119). -/
  | aeaddec
  deriving DecidableEq, Repr

end Sys2Proof
end

