-- ==== Sys2Proof/Decode.lean ====
section
/-!
DEFINITION. Decoding and encoding of the command word (30_encoding.md). Every command is one 32-bit word of format C (R180,
R181); decoding depends on the word alone and every word is either one of the seven commands or illegal by name (R182, R185).
-/

namespace Sys2Proof

/-- Why a word written to CMD is not a command (R182). -/
inductive IllegalWord where
  /-- A bit among [31:8] is set. -/
  | zeroFieldNotZero
  /-- Bits [31:8] are zero and the opcode is none of 0x01 to 0x07. -/
  | unknownOpcode (op : Byte)
  deriving DecidableEq, Repr

/-- Format C, field `opcode`: bits [7:0] (R181). -/
def opcodeField (w : Word) : Byte := w.extractLsb' 0 8

/-- Format C, field `zero`: bits [31:8] (R181). -/
def zeroField (w : Word) : BitVec 24 := w.extractLsb' 8 24

/-- The opcode assignments of R183. -/
def Instr.opcode : Instr → Byte
  | .keyexp => 0x01#8
  | .blkenc => 0x02#8
  | .gfmul => 0x03#8
  | .ghash => 0x04#8
  | .ctrxor => 0x05#8
  | .aeadenc => 0x06#8
  | .aeaddec => 0x07#8

/-- The opcode map read the other way: opcode 0x00 and opcodes 0x08 to 0xFF are unused (R185). -/
def decodeOpcode (op : Byte) : Option Instr :=
  if op = 0x01#8 then some .keyexp
  else if op = 0x02#8 then some .blkenc
  else if op = 0x03#8 then some .gfmul
  else if op = 0x04#8 then some .ghash
  else if op = 0x05#8 then some .ctrxor
  else if op = 0x06#8 then some .aeadenc
  else if op = 0x07#8 then some .aeaddec
  else none

/-- R182: the command a word written to CMD encodes, or why it encodes none. -/
def decode (w : Word) : Except IllegalWord Instr :=
  if zeroField w ≠ 0#24 then .error .zeroFieldNotZero
  else
    match decodeOpcode (opcodeField w) with
    | some i => .ok i
    | none => .error (.unknownOpcode (opcodeField w))

/-- R183: the complete 32-bit word of a command. -/
def encode (i : Instr) : Word := 0#24 ++ i.opcode

/-- The command word whose bits are `w`, of which the opcode table gives `nbits` (the bits above are zero). -/
def tableWord (nbits w : Nat) : Word := BitVec.ofNat 32 (w % 2 ^ nbits)

/-- The command this model's decoder reads from a word of the opcode table. A command is 32 bits (R180), so a row of more bits
is none. -/
def decodeTableWord (nbits w : Nat) : Option Instr :=
  if nbits ≤ 32 then
    match decode (tableWord nbits w) with
    | .ok i => some i
    | .error _ => none
  else none

end Sys2Proof
end

