-- ==== Sys2Proof/Machine/Bytes.lean ====
section
/-!
DEFINITION. Byte order and byte strings (00_scope.md section 5, 20_memory.md section 1): everything multi-byte is big-endian
(R46), a block's byte 0 comes first, and a field is split into chunks of up to 16 bytes (R52).
-/

namespace Sys2Proof.Machine

/-- `be32`: a word from four bytes, the first byte most significant (00_scope.md section 5.1). -/
def be32 (b0 b1 b2 b3 : Byte) : Word := b0 ++ b1 ++ b2 ++ b3

/-- Byte `i` of a word in the order of `bytes32`: byte 0 is the most significant (00_scope.md section 5.1). -/
def wordByte (w : Word) (i : Nat) : Byte := w.extractLsb' (8 * (3 - i)) 8

/-- Byte `i` of a block, 0 to 15 (R49). -/
def blockByte (b : Block) (i : Nat) : Byte := b.extractLsb' (8 * (15 - i)) 8

/-- Word `j` of a block, 0 to 3: four bytes, big-endian (R46, R50, R78). -/
def blockWord (b : Block) (j : Nat) : Word :=
  be32 (blockByte b (4 * j)) (blockByte b (4 * j + 1)) (blockByte b (4 * j + 2)) (blockByte b (4 * j + 3))

/-- The block of four words, each stored big-endian, the first word first. -/
def blockOfWords (w0 w1 w2 w3 : Word) : Block := w0 ++ w1 ++ w2 ++ w3

/-- The 16 bytes of a block, byte 0 first. -/
def blockBytes (b : Block) : List Byte := (List.range 16).map (blockByte b)

/-- Field bit `i` of a block, 0 to 127: bit 7 - (i mod 8) of byte i / 8 (R51, R86). -/
def fieldBit (b : Block) (i : Nat) : Bool := (blockByte b (i / 8)).getLsbD (7 - i % 8)

/-- `Pad(c)`: the bytes of a chunk, then zeros up to 16 bytes (R93). -/
def pad (c : List Byte) : Block :=
  c.getD 0 0 ++ c.getD 1 0 ++ c.getD 2 0 ++ c.getD 3 0 ++
  c.getD 4 0 ++ c.getD 5 0 ++ c.getD 6 0 ++ c.getD 7 0 ++
  c.getD 8 0 ++ c.getD 9 0 ++ c.getD 10 0 ++ c.getD 11 0 ++
  c.getD 12 0 ++ c.getD 13 0 ++ c.getD 14 0 ++ c.getD 15 0

/-- The number of chunks of a field of `n` bytes: the ceiling of n / 16 (R52). -/
def chunkCount (n : Nat) : Nat := (n + 15) / 16

/-- Chunk `j` of a field: the bytes 16j up to 16j + 16 or the end of the field (R52, R94). -/
def chunk (field : List Byte) (j : Nat) : List Byte := (field.drop (16 * j)).take 16

/-- The chunks of a field in order of increasing offset; an empty field has none (R52). -/
def chunks (field : List Byte) : List (List Byte) := (List.range (chunkCount field.length)).map (chunk field)

end Sys2Proof.Machine
end

