-- ==== Sys2Proof/Machine/Registers.lean ====
section
/-!
DEFINITION. The names the host uses for what it can reach: the registers 0 to 44 with their widths and access rights (the
table of R22) and the three buffer spaces (R39).
-/

namespace Sys2Proof.Machine

/-- The registers of R22, by name. -/
inductive Reg where
  /-- CMD, the command port, which is not storage (R24). -/
  | cmd
  /-- STATUS (R23). -/
  | status
  /-- KEYLEN (R25). -/
  | keylen
  /-- KEY (R26). -/
  | key
  /-- NONCELEN (R27). -/
  | noncelen
  /-- NONCE (R28). -/
  | nonce
  /-- AADLEN (R29). -/
  | aadlen
  /-- DLEN (R29). -/
  | dlen
  /-- OUTCAP (R30). -/
  | outcap
  /-- A (R31). -/
  | a
  /-- B (R31). -/
  | b
  /-- R (R32). -/
  | r
  /-- TAG (R33). -/
  | tag
  /-- RK[i], a round subkey (R34). -/
  | rk (i : Fin 32)
  deriving DecidableEq, Repr

/-- The width of each register in bits (R22, column "width"; 16 bytes are 128 bits, 12 bytes are 96). -/
@[reducible] def Reg.width : Reg → Nat
  | .cmd => 32
  | .status => 32
  | .keylen => 32
  | .key => 128
  | .noncelen => 32
  | .nonce => 96
  | .aadlen => 64
  | .dlen => 64
  | .outcap => 64
  | .a => 128
  | .b => 128
  | .r => 128
  | .tag => 128
  | .rk _ => 32

/-- The register number of R22, column "no.". -/
def Reg.number : Reg → Nat
  | .cmd => 0
  | .status => 1
  | .keylen => 2
  | .key => 3
  | .noncelen => 4
  | .nonce => 5
  | .aadlen => 6
  | .dlen => 7
  | .outcap => 8
  | .a => 9
  | .b => 10
  | .r => 11
  | .tag => 12
  | .rk i => 13 + i.val

/-- The register a number names; a number not in the table of R22 names none. -/
def Reg.ofNumber (n : Nat) : Option Reg :=
  match n with
  | 0 => some .cmd
  | 1 => some .status
  | 2 => some .keylen
  | 3 => some .key
  | 4 => some .noncelen
  | 5 => some .nonce
  | 6 => some .aadlen
  | 7 => some .dlen
  | 8 => some .outcap
  | 9 => some .a
  | 10 => some .b
  | 11 => some .r
  | 12 => some .tag
  | k + 13 => if h : k < 32 then some (.rk ⟨k, h⟩) else none

/-- R22, column "host": may the host read the register? KEY and CMD cannot be read (R24, R26). -/
def Reg.hostReads : Reg → Bool
  | .cmd => false
  | .status => true
  | .keylen => true
  | .key => false
  | .noncelen => true
  | .nonce => true
  | .aadlen => true
  | .dlen => true
  | .outcap => true
  | .a => true
  | .b => true
  | .r => true
  | .tag => true
  | .rk _ => true

/-- R22, column "host": may the host write the register? STATUS, R and RK cannot be written (R23, R32, R34). -/
def Reg.hostWrites : Reg → Bool
  | .cmd => true
  | .status => false
  | .keylen => true
  | .key => true
  | .noncelen => true
  | .nonce => true
  | .aadlen => true
  | .dlen => true
  | .outcap => true
  | .a => true
  | .b => true
  | .r => false
  | .tag => true
  | .rk _ => false

/-- The three disjoint buffer spaces (R39). -/
inductive Space where
  /-- AADBUF: the core reads offsets below AADLEN. -/
  | aadbuf
  /-- DINBUF: the core reads offsets below DLEN. -/
  | dinbuf
  /-- DOUTBUF: the core writes offsets below DLEN and reads none. -/
  | doutbuf
  deriving DecidableEq, Repr

end Sys2Proof.Machine
end

