-- ==== Sys2Proof/Machine/HostEvent.lean ====
section
/-!
DEFINITION. What reaches the CORE from outside: the host's steps (R40, R186), the reset event (R160), and what a host read
gives back. The CORE has no program counter and fetches nothing (R36); which step comes next is the host's choice alone, so the
choices not yet taken are plain data that the machine's step takes one at a time.
-/

namespace Sys2Proof.Machine

/-- RESET_DATA (R10, R41): the contents that reset leaves in the data registers, the round-key file and the buffers, which no
source specifies. A buffer's contents are listed from offset 0. -/
structure ResetData where
  key : Block
  nonce : Nonce
  a : Block
  b : Block
  r : Block
  tag : Block
  rk : Vector Word 32
  aadbuf : List Byte
  dinbuf : List Byte
  doutbuf : List Byte
  deriving DecidableEq, Repr

/-- One step from outside the CORE, in the notation of R186. -/
inductive HostEvent where
  /-- `WR reg, value`: write a whole register; a write to CMD issues a command (R24, R40). -/
  | wr (reg : Reg) (value : BitVec reg.width)
  /-- `WRB space, off, bytes`: write a byte string into a buffer space from offset off (R40, R186). -/
  | wrb (space : Space) (off : Nat) (bytes : List Byte)
  /-- `RD reg`: read a whole register (R40). -/
  | rd (reg : Reg)
  /-- `RDB space, off, n`: read n bytes of a buffer space from offset off (R40, R186). -/
  | rdb (space : Space) (off : Nat) (n : Nat)
  /-- The reset event (R160), with the RESET_DATA it leaves behind (R162: not the same at every reset). -/
  | reset (data : ResetData)
  deriving DecidableEq, Repr

/-- What one host read gave the host. -/
inductive Reading where
  /-- A register's whole value. -/
  | reg (reg : Reg) (value : BitVec reg.width)
  /-- Bytes of a buffer space, in offset order. -/
  | bytes (space : Space) (off : Nat) (bytes : List Byte)
  deriving DecidableEq, Repr

end Sys2Proof.Machine
end

