-- ==== Sys2Proof/Config.lean ====
section
/-!
DEFINITION. The parameters of R9 and R10, and the values State.reset takes for those the spec leaves open.

BUFCAP and RESET_DATA are parameters of the model, not constants: BUFCAP is carried by the state and RESET_DATA by the reset
(State.resetWith, HostEvent.reset), so a statement about them holds for every value. The definitions here only say which values
the ONE state State.reset has. BUS has no counterpart: no rule depends on it (R49).
-/

namespace Sys2Proof.Machine

/-- The length in bytes KEYLEN must claim (R9, R130). -/
def Config.keyBytes : Word := 16#32

/-- The length in bytes NONCELEN must claim (R9, R130). -/
def Config.nonceBytes : Word := 12#32

/-- The BUFCAP of State.reset: the largest the spec allows (R10). DESIGN CHOICE, notes/assumptions/1.md. -/
def Config.bufcap : Fin (2 ^ 61) := ⟨2 ^ 61 - 1, by decide⟩

/-- What a buffer byte reads as that nothing has written since a reset whose RESET_DATA does not list it. DESIGN CHOICE,
notes/assumptions/3.md. -/
def Config.unlistedByte : Byte := 0x00#8

/-- The RESET_DATA of State.reset: all zero. DESIGN CHOICE, notes/assumptions/2.md. -/
def Config.resetData : ResetData where
  key := 0
  nonce := 0
  a := 0
  b := 0
  r := 0
  tag := 0
  rk := Vector.replicate 32 0#32
  aadbuf := []
  dinbuf := []
  doutbuf := []

end Sys2Proof.Machine
end

