-- ==== Sys2Proof/Machine/Memory.lean ====
section
/-!
DEFINITION. The bytes of one buffer space as plain data: a list of (offset, byte) pairs in one canonical form, offsets strictly
rising and no entry equal to what an unlisted offset reads as. Wider accesses are byte strings in offset order (R47, R48).
-/

namespace Sys2Proof.Machine

/-- The contents of one buffer space. -/
abbrev Memory := List Host.Cell

/-- Canonical from offset `lo` on. -/
def Memory.wfFrom (lo : Nat) : Memory → Bool
  | [] => true
  | (a, v) :: rest => decide (lo ≤ a) && decide (v ≠ Config.unlistedByte) && Memory.wfFrom (a + 1) rest

/-- The canonical form: offsets strictly rising, no entry equal to what an unlisted offset reads as. -/
def Memory.wf (m : Memory) : Bool := Memory.wfFrom 0 m

/-- Every listed offset is below `cap`. -/
def Memory.below (cap : Nat) (m : Memory) : Bool := m.all fun c => decide (c.1 < cap)

/-- The byte at an offset. -/
def Memory.read : Memory → Nat → Byte
  | [], _ => Config.unlistedByte
  | (a, v) :: rest, k => if a = k then v else Memory.read rest k

/-- The memory with one byte replaced, in canonical form again. -/
def Memory.write : Memory → Nat → Byte → Memory
  | [], k, v => if v = Config.unlistedByte then [] else [(k, v)]
  | (a, u) :: rest, k, v =>
    if k < a then
      if v = Config.unlistedByte then (a, u) :: rest else (k, v) :: (a, u) :: rest
    else if k = a then
      if v = Config.unlistedByte then rest else (k, v) :: rest
    else (a, u) :: Memory.write rest k v

/-- The n bytes from offset `off`, in offset order (R47). -/
def Memory.readBytes (m : Memory) (off n : Nat) : List Byte :=
  (List.range n).map fun k => m.read (off + k)

/-- The memory with a byte string written from offset `off` on (R48). -/
def Memory.writeBytes (m : Memory) (off : Nat) : List Byte → Memory
  | [] => m
  | v :: rest => Memory.writeBytes (m.write off v) (off + 1) rest

/-- The memory of `cap` bytes that holds the listed bytes from offset 0 and the unlisted byte elsewhere. -/
def Memory.ofBytes (cap : Nat) (bytes : List Byte) : Memory :=
  Memory.writeBytes [] 0 (bytes.take cap)

end Sys2Proof.Machine
end

