-- ==== Sys2Proof/Machine/State.lean ====
section
/-!
DEFINITION. The state of the CORE (R21), the reset state (R41, R160), and the reasons a step can stop.
-/

namespace Sys2Proof.Machine

/-- The architectural state of R21, and three fields of the model's own: the parameter BUFCAP, the host's steps still to come,
and what the host has read so far. -/
structure State where
  /-- STATUS.ERR, bits [3:0]: the outcome code of the latest command (R23). -/
  err : BitVec 4
  /-- STATUS.RKV, bit [4]: RK holds the output of a successful KEYEXP (R23). Bits [31:5] are hardwired to 0 (R41). -/
  rkv : Bool
  /-- KEYLEN (R25). -/
  keylen : BitVec 32
  /-- KEY (R26). -/
  key : Block
  /-- NONCELEN (R27). -/
  noncelen : BitVec 32
  /-- NONCE (R28). -/
  nonce : Nonce
  /-- AADLEN (R29). -/
  aadlen : BitVec 64
  /-- DLEN (R29). -/
  dlen : BitVec 64
  /-- OUTCAP (R30). -/
  outcap : BitVec 64
  /-- A (R31). -/
  a : Block
  /-- B (R31). -/
  b : Block
  /-- R (R32). -/
  r : Block
  /-- TAG (R33). -/
  tag : Block
  /-- RK[0] to RK[31] (R34). -/
  rk : Vector Word 32
  /-- AADBUF (R39). -/
  aadbuf : Memory
  /-- DINBUF (R39). -/
  dinbuf : Memory
  /-- DOUTBUF (R39). -/
  doutbuf : Memory
  /-- The model's own: the parameter BUFCAP, 0 to 2^61 - 1 (R10, R45). No step writes it. -/
  bufcap : Fin (2 ^ 61)
  /-- The model's own: the host's steps still to come, the next one first (R36). -/
  pending : List HostEvent
  /-- The model's own: what host reads have given, the oldest first (R40). -/
  seen : List Reading
  deriving DecidableEq, Repr

/-- The reasons the machine stops with a fault. The errors of the CORE are none of these: an error is a next state with its
code in STATUS.ERR (R135). -/
inductive Fault where
  /-- Raised by GHASH, CTRXOR, AEADENC and AEADDEC when AADLEN or DLEN names a range of a buffer space that does not exist,
  because it ends above BUFCAP (R47, R48, U7). Safe: the spec gives such a command no meaning, and no host step leads to it. -/
  | noSuchBufferRange (space : Space)
  deriving DecidableEq, Repr

/-- The reasons the model gives a step no meaning. -/
inductive Refusal where
  /-- Raised by exec for a command that has no meaning in the model yet. Safe: nothing follows about such a command. -/
  | notModelled (mnemonic : String)
  /-- Raised by a host read of a register the host cannot read: KEY or CMD (R40, U11). Safe: the spec has no such step. -/
  | notHostReadable (reg : Reg)
  /-- Raised by a host write of a register the host cannot write: STATUS, R or RK (R40, U11). Safe: the spec has no such step. -/
  | notHostWritable (reg : Reg)
  /-- Raised by a host write of AADLEN or DLEN with a value above BUFCAP (R29, U7). Safe: the spec has no such step. -/
  | lengthAboveBufcap (reg : Reg)
  /-- Raised by a host access to a buffer at an offset of BUFCAP or more (R40, U11). Safe: the spec has no such step. -/
  | offsetNotBelowBufcap (space : Space)
  deriving DecidableEq, Repr

/-- The outcome of one step of the CORE. -/
abbrev Out := Host.Outcome State Fault Refusal

/-- The state right after a reset that leaves RESET_DATA `data`, in an instance whose BUFCAP is `cap` (R41, R160): STATUS and the
five length registers are zero, everything else holds `data`. The host has taken no step yet. -/
def State.resetWith (cap : Fin (2 ^ 61)) (data : ResetData) : State where
  err := 0#4
  rkv := false
  keylen := 0#32
  key := data.key
  noncelen := 0#32
  nonce := data.nonce
  aadlen := 0#64
  dlen := 0#64
  outcap := 0#64
  a := data.a
  b := data.b
  r := data.r
  tag := data.tag
  rk := data.rk
  aadbuf := Memory.ofBytes cap.val data.aadbuf
  dinbuf := Memory.ofBytes cap.val data.dinbuf
  doutbuf := Memory.ofBytes cap.val data.doutbuf
  bufcap := cap
  pending := []
  seen := []

/-- The state right after reset, with the model's named values for the parameters BUFCAP and RESET_DATA (R10, R41). -/
def State.reset : State := State.resetWith Config.bufcap Config.resetData

end Sys2Proof.Machine
end

