-- ==== Sys2Proof/Machine/Flags.lean ====
section
/-!
DEFINITION. The STATUS register: the outcome codes of STATUS.ERR and the word the host reads (R23, R37, R131).
-/

namespace Sys2Proof.Machine

/-- The six errors of a command (R130 to R133). -/
inductive Err where
  /-- KEYLEN is not 16 at KEYEXP. -/
  | invalidKeyLength
  /-- NONCELEN is not 12 at AEADENC or AEADDEC. -/
  | invalidNonceLength
  /-- OUTCAP is less than DLEN at CTRXOR, AEADENC or AEADDEC. -/
  | bufferLengthMismatch
  /-- The recomputed tag differs from TAG at AEADDEC. -/
  | authenticationFailure
  /-- STATUS.RKV is 0 at BLKENC, CTRXOR, AEADENC or AEADDEC. -/
  | noKeySchedule
  /-- The word written to CMD is no command. -/
  | illegalCommand
  deriving DecidableEq, Repr

/-- The code of each error in STATUS.ERR (R131). -/
def Err.code : Err → BitVec 4
  | .invalidKeyLength => 1#4
  | .invalidNonceLength => 2#4
  | .bufferLengthMismatch => 3#4
  | .authenticationFailure => 4#4
  | .noKeySchedule => 5#4
  | .illegalCommand => 6#4

/-- The code of success (R131). -/
def okCode : BitVec 4 := 0#4

/-- STATUS as the host reads it: ERR in bits [3:0], RKV in bit [4], bits [31:5] zero (R23). -/
def State.status (s : State) : Word := 0#27 ++ BitVec.ofBool s.rkv ++ s.err

end Sys2Proof.Machine
end

