-- ==== Sys2Proof/Machine/Ops.lean ====
section
/-!
DEFINITION. The named operations over registers and buffers: the updates of single registers, access to the buffer spaces, the
error exit `raise` (R135) and the successful end of a command. There is no return from an error to model: after it the core is
idle, as after a success (R135, R138).
-/

namespace Sys2Proof.Machine

/-- `STATUS.ERR <- code` (R37). -/
def State.setErr (s : State) (code : BitVec 4) : State := { s with err := code }

/-- `R <- v` (R32). -/
def State.setR (s : State) (v : Block) : State := { s with r := v }

/-- `TAG <- v` (R33). -/
def State.setTag (s : State) (v : Block) : State := { s with tag := v }

/-- `RK[i] <- rk[i]` for all i and `STATUS.RKV <- 1` (R34, R72). -/
def State.loadSchedule (s : State) (rk : Vector Word 32) : State := { s with rk := rk, rkv := true }

/-- The host's pending steps replaced. -/
def State.setPending (s : State) (evs : List HostEvent) : State := { s with pending := evs }

/-- One more reading for the host; nothing of the CORE changes (R54). -/
def State.observe (s : State) (x : Reading) : State := { s with seen := s.seen ++ [x] }

/-- The contents of a buffer space (R39). -/
def State.buf (s : State) : Space → Memory
  | .aadbuf => s.aadbuf
  | .dinbuf => s.dinbuf
  | .doutbuf => s.doutbuf

/-- The contents of a buffer space replaced; the three spaces are disjoint (R39). -/
def State.setBuf (s : State) (sp : Space) (m : Memory) : State :=
  match sp with
  | .aadbuf => { s with aadbuf := m }
  | .dinbuf => { s with dinbuf := m }
  | .doutbuf => { s with doutbuf := m }

/-- `MemRead(space, off, n)` (R47); none when the range does not exist. -/
def State.memRead (s : State) (sp : Space) (off n : Nat) : Option (List Byte) :=
  if off + n ≤ s.bufcap.val then some ((s.buf sp).readBytes off n) else none

/-- `MemWrite(space, off, len(v), v)` (R48); none when the range does not exist. -/
def State.memWrite (s : State) (sp : Space) (off : Nat) (v : List Byte) : Option State :=
  if off + v.length ≤ s.bufcap.val then some (s.setBuf sp ((s.buf sp).writeBytes off v)) else none

/-- `raise E`: the error exit, which writes the error's code to STATUS.ERR and nothing else (R135). -/
def State.raise (s : State) (e : Err) : State := s.setErr e.code

/-- The successful end of a command: `STATUS.ERR <- 0` (R37). -/
def State.succeed (s : State) : State := s.setErr okCode

/-- `if cond: raise E`, else go on with `k` (R135). -/
def State.raiseIf (s : State) (cond : Bool) (e : Err) (k : Out) : Out :=
  if cond then .next (s.raise e) else k

/-- The reset event (R160): every piece of architectural state takes its reset value. The host keeps its own plans and what it has
read, and BUFCAP is fixed for the life of the instance (R45). -/
def State.resetEvent (s : State) (data : ResetData) : State :=
  { State.resetWith s.bufcap data with pending := s.pending, seen := s.seen }

end Sys2Proof.Machine
end

