-- ==== Sys2Proof/Machine/Tables.lean ====
section
/-!
DEFINITION. The constant tables S, FK and CK (40_constant_tables.md): constants of the CORE's definition, no state (R44).
-/

namespace Sys2Proof.Machine

/-- The table S as one string of 256 bytes, index 0 first, as R62 prints it. -/
def sBoxBytes : BitVec 2048 :=
  0xd690e9fecce13db716b614c228fb2c052b679a762abe04c3aa441326498606999c4250f491ef987a33540b43edcfac62e4b31ca9c908e89580df94fa758f3fa64707a7fcf37317ba83593c19e6854fa8686b81b27164da8bf8eb0f4b70569d351e240e5e6358d1a225227c3b01217887d40046579fd327524c3602e7a0c4c89eeabf8ad240c738b5a3f7f2cef96115a1e0ae5da49b341a55ad933230f58cb1e31df6e22e8266ca60c02923ab0d534e6fd5db3745defd8e2f03ff6a726d6c5b518d1baf92bbddbc7f11d95c411f105ad80ac13188a5cd7bbd2d74d012b8e5b4b08969974a0c96777e65b9f109c56ec68418f07dec3adc4d2079ee5f3ed7cb3948#2048

/-- `S(b)`: the entry of the substitution table at index b (R62). -/
def sBox (b : Byte) : Byte := sBoxBytes.extractLsb' (8 * (255 - b.toNat)) 8

/-- FK[0] (R64). -/
def fk0 : Word := 0xa3b1bac6#32
/-- FK[1] (R64). -/
def fk1 : Word := 0x56aa3350#32
/-- FK[2] (R64). -/
def fk2 : Word := 0x677d9197#32
/-- FK[3] (R64). -/
def fk3 : Word := 0xb27022dc#32

/-- CK[0] to CK[31] (R65). -/
def ckTable : List Word :=
  [0x00070e15#32, 0x1c232a31#32, 0x383f464d#32, 0x545b6269#32, 0x70777e85#32, 0x8c939aa1#32, 0xa8afb6bd#32, 0xc4cbd2d9#32] ++
  [0xe0e7eef5#32, 0xfc030a11#32, 0x181f262d#32, 0x343b4249#32, 0x50575e65#32, 0x6c737a81#32, 0x888f969d#32, 0xa4abb2b9#32] ++
  [0xc0c7ced5#32, 0xdce3eaf1#32, 0xf8ff060d#32, 0x141b2229#32, 0x30373e45#32, 0x4c535a61#32, 0x686f767d#32, 0x848b9299#32] ++
  [0xa0a7aeb5#32, 0xbcc3cad1#32, 0xd8dfe6ed#32, 0xf4fb0209#32, 0x10171e25#32, 0x2c333a41#32, 0x484f565d#32, 0x646b7279#32]

end Sys2Proof.Machine
end

