-- ==== Sys2Proof/Machine/BlockCipher.lean ====
section
/-!
DEFINITION. The round function, the block transform and the command BLKENC (42_block_cipher.md).
-/

namespace Sys2Proof.Machine

/-- Four words in order: the state of the block transform, or of the key schedule. -/
structure Quad where
  w0 : Word
  w1 : Word
  w2 : Word
  w3 : Word
  deriving DecidableEq, Repr

/-- `tau`: each byte of a word replaced by its S entry (R75). -/
def tau (w : Word) : Word :=
  be32 (sBox (wordByte w 0)) (sBox (wordByte w 1)) (sBox (wordByte w 2)) (sBox (wordByte w 3))

/-- `L`, the linear transform of the round function: five terms (R76). -/
def linearL (w : Word) : Word :=
  w ^^^ w.rotateLeft 2 ^^^ w.rotateLeft 10 ^^^ w.rotateLeft 18 ^^^ w.rotateLeft 24

/-- `T(w) = L(tau(w))` (R77). -/
def roundT (w : Word) : Word := linearL (tau w)

/-- The source's RoundFunction of a word and a subkey (R77). -/
def roundFunction (x k : Word) : Word := roundT (x ^^^ k)

/-- One round of the block transform: the new word enters at index 3 (R79). -/
def cipherRound (x : Quad) (k : Word) : Quad :=
  ⟨x.w1, x.w2, x.w3, x.w0 ^^^ roundFunction (x.w1 ^^^ x.w2 ^^^ x.w3) k⟩

/-- The four state words a block is loaded into (R78). -/
def loadBlock (b : Block) : Quad := ⟨blockWord b 0, blockWord b 1, blockWord b 2, blockWord b 3⟩

/-- The output of the transform: the four words in reverse order, each stored big-endian (R79). -/
def storeReversed (x : Quad) : Block := blockOfWords x.w3 x.w2 x.w1 x.w0

/-- `E(rk, blk)`, the forward transform of one block (R79). -/
def blockE (rk : Vector Word 32) (blk : Block) : Block :=
  storeReversed (rk.toList.foldl cipherRound (loadBlock blk))

/-- BLKENC (R80). -/
def execBlkenc (s : State) : Out :=
  s.raiseIf (!s.rkv) .noKeySchedule <|
  .next (s.setR (blockE s.rk s.a)).succeed

end Sys2Proof.Machine
end

