-- ==== Sys2Proof/Machine/Operands.lean ====
section
/-!
DEFINITION. The operands of the commands. All are implicit (R184): fixed registers, which a meaning names directly, and the
buffer ranges AADBUF[0..AADLEN), DINBUF[0..DLEN) and DOUTBUF[0..DLEN), read or written whole (R43).
-/

namespace Sys2Proof.Machine

/-- `MemRead(AADBUF, 0, AADLEN)`, then go on with the bytes. -/
def State.readAad (s : State) (k : List Byte → Out) : Out :=
  match s.memRead .aadbuf 0 s.aadlen.toNat with
  | some bytes => k bytes
  | none => .fault (.noSuchBufferRange .aadbuf)

/-- `MemRead(DINBUF, 0, DLEN)`, then go on with the bytes. -/
def State.readData (s : State) (k : List Byte → Out) : Out :=
  match s.memRead .dinbuf 0 s.dlen.toNat with
  | some bytes => k bytes
  | none => .fault (.noSuchBufferRange .dinbuf)

/-- `MemWrite(DOUTBUF, 0, len(v), v)`, then go on in the state after it. -/
def State.writeData (s : State) (v : List Byte) (k : State → Out) : Out :=
  match s.memWrite .doutbuf 0 v with
  | some t => k t
  | none => .fault (.noSuchBufferRange .doutbuf)

end Sys2Proof.Machine
end

