-- ==== Sys2Proof/Machine/CounterMode.lean ====
section
/-!
DEFINITION. The counter-mode engine and the command CTRXOR (45_counter_mode.md).
-/

namespace Sys2Proof.Machine

/-- Bytes 0 to 11 of a counter block, which it treats as opaque (R103). -/
def counterHead (c : Block) : BitVec 96 := c.extractLsb' 32 96

/-- The count of a counter block: bytes 12 to 15, big-endian (R103). -/
def counterCount (c : Block) : Word := blockWord c 3

/-- `Inc32(c)`: the count plus one modulo 2^32, bytes 0 to 11 untouched (R104). -/
def inc32 (c : Block) : Block := counterHead c ++ (counterCount c + 1#32)

/-- One chunk xored with as many bytes of a keystream block as it has (R105). -/
def xorChunk (data : List Byte) (ks : Block) : List Byte := List.zipWith (· ^^^ ·) data (blockBytes ks)

/-- The counter-mode pass over a list of chunks, from counter c (R105). -/
def ctrXorChunks (rk : Vector Word 32) : Block → List (List Byte) → List Byte
  | _, [] => []
  | c, data :: rest => xorChunk data (blockE rk c) ++ ctrXorChunks rk (inc32 c) rest

/-- `CtrXor(rk, ctr, data)` (R105). -/
def ctrXor (rk : Vector Word 32) (ctr : Block) (data : List Byte) : List Byte :=
  ctrXorChunks rk ctr (chunks data)

/-- CTRXOR (R106). -/
def execCtrxor (s : State) : Out :=
  s.raiseIf (!s.rkv) .noKeySchedule <|
  s.raiseIf (decide (s.outcap < s.dlen)) .bufferLengthMismatch <|
  s.readData fun data =>
  s.writeData (ctrXor s.rk s.a data) fun t =>
  .next t.succeed

end Sys2Proof.Machine
end

