-- ==== Sys2Proof/Machine/GfMultiplier.lean ====
section
/-!
DEFINITION. The multiplier in GF(2^128) and the command GFMUL (43_gf_multiplier.md).
-/

namespace Sys2Proof.Machine

/-- The constant 0xE1 in the top byte of a block, byte 0 (R87, R88). -/
def reduction : Block := 0xE1#8 ++ 0#120

/-- The shifting copy after one bit: the 16 bytes as one string shifted right by one, with 0xE1 xored into byte 0 when the bit that
left byte 15 was 1 (R87). -/
def shiftReduce (v : Block) : Block :=
  if (blockByte v 15).getLsbD 0 then (v >>> 1) ^^^ reduction else v >>> 1

/-- Iteration i of the multiplication on (Z, V): the field bits of X in the order 0 to 127 (R87). -/
def gfStep (x : Block) (zv : Block × Block) (i : Nat) : Block × Block :=
  (if fieldBit x i then zv.1 ^^^ zv.2 else zv.1, shiftReduce zv.2)

/-- `GFMul(X, Y)` (R87). -/
def gfMul (x y : Block) : Block := ((List.range 128).foldl (gfStep x) (0#128, y)).1

/-- GFMUL (R89). -/
def execGfmul (s : State) : Out := .next (s.setR (gfMul s.a s.b)).succeed

end Sys2Proof.Machine
end

