-- ==== Sys2Proof/Machine/Ghash.lean ====
section
/-!
DEFINITION. The authentication accumulator and the command GHASH (44_ghash.md).
-/

namespace Sys2Proof.Machine

/-- `Fold(Y, H, field)`: the chunks of one field folded in order, the last one zero-padded (R94). -/
def fold (y h : Block) (field : List Byte) : Block :=
  (chunks field).foldl (fun acc c => gfMul (acc ^^^ pad c) h) y

/-- `LenBlock(a, c)`: the AAD's and the ciphertext's lengths in bits, each 64 bits big-endian (R96). -/
def lenBlock (a c : Nat) : Block := BitVec.ofNat 64 (8 * a) ++ BitVec.ofNat 64 (8 * c)

/-- `GHash(H, aad, ct)`: AAD, ciphertext and the length block folded from zero, each a field of its own (R95, R97). -/
def gHash (h : Block) (aad ct : List Byte) : Block :=
  fold (fold (fold 0#128 h aad) h ct) h (blockBytes (lenBlock aad.length ct.length))

/-- GHASH (R98). -/
def execGhash (s : State) : Out :=
  s.readAad fun aad =>
  s.readData fun ct =>
  .next (s.setR (gHash s.b aad ct)).succeed

end Sys2Proof.Machine
end

