-- ==== Sys2Proof/Machine/Aead.lean ====
section
/-!
DEFINITION. The AEAD orchestrator and the commands AEADENC and AEADDEC (46_aead.md).
-/

namespace Sys2Proof.Machine

/-- The hash subkey H: the all-zero block enciphered (R112). -/
def hashSubkey (rk : Vector Word 32) : Block := blockE rk 0#128

/-- `J0(nonce)`: the nonce, then 00 00 00 01 (R113). -/
def j0 (nonce : Nonce) : Block := nonce ++ 0x00000001#32

/-- The tag over a ciphertext: Y xor the tag mask (steps (1), (2), (3), (5), (6), (7), (8) of R115 and R118). -/
def tagOver (rk : Vector Word 32) (nonce : Nonce) (aad ct : List Byte) : Block :=
  gHash (hashSubkey rk) aad ct ^^^ blockE rk (j0 nonce)

/-- `Seal(rk, nonce, aad, pt)` (R115). -/
def sealMessage (rk : Vector Word 32) (nonce : Nonce) (aad pt : List Byte) : List Byte × Block :=
  let ct := ctrXor rk (inc32 (j0 nonce)) pt
  (ct, tagOver rk nonce aad ct)

/-- `TagEqual(t, u)`: the or of the 16 byte differences is zero (R117). -/
def tagEqual (t u : Block) : Bool :=
  ((List.range 16).foldl (fun d k => d ||| (blockByte t k ^^^ blockByte u k)) 0x00#8) == 0x00#8

/-- `Open(rk, nonce, aad, ct, tag)`: the counter-mode pass only after the comparison; none is the outcome failure (R118). -/
def openMessage (rk : Vector Word 32) (nonce : Nonce) (aad ct : List Byte) (tag : Block) : Option (List Byte) :=
  if tagEqual (tagOver rk nonce aad ct) tag then some (ctrXor rk (inc32 (j0 nonce)) ct) else none

/-- AEADENC (R116). -/
def execAeadenc (s : State) : Out :=
  s.raiseIf (!s.rkv) .noKeySchedule <|
  s.raiseIf (decide (s.noncelen ≠ Config.nonceBytes)) .invalidNonceLength <|
  s.raiseIf (decide (s.outcap < s.dlen)) .bufferLengthMismatch <|
  s.readAad fun aad =>
  s.readData fun pt =>
  s.writeData (sealMessage s.rk s.nonce aad pt).1 fun t =>
  .next (t.setTag (sealMessage s.rk s.nonce aad pt).2).succeed

/-- AEADDEC (R119). -/
def execAeaddec (s : State) : Out :=
  s.raiseIf (!s.rkv) .noKeySchedule <|
  s.raiseIf (decide (s.noncelen ≠ Config.nonceBytes)) .invalidNonceLength <|
  s.raiseIf (decide (s.outcap < s.dlen)) .bufferLengthMismatch <|
  s.readAad fun aad =>
  s.readData fun ct =>
  match openMessage s.rk s.nonce aad ct s.tag with
  | none => .next (s.raise .authenticationFailure)
  | some pt => s.writeData pt fun t => .next t.succeed

end Sys2Proof.Machine
end

