-- ==== Sys2Proof/Machine/KeySchedule.lean ====
section
/-!
DEFINITION. The key schedule and the command KEYEXP (41_key_schedule.md).
-/

namespace Sys2Proof.Machine

/-- `Lk`, the linear transform of the key schedule: three terms (R69). -/
def linearLk (w : Word) : Word := w ^^^ w.rotateLeft 13 ^^^ w.rotateLeft 23

/-- `Tk(w) = Lk(tau(w))` (R70). -/
def roundTk (w : Word) : Word := linearLk (tau w)

/-- The new word of one round of the key schedule: the subkey (R71). -/
def subkey (k : Quad) (c : Word) : Word := k.w0 ^^^ roundTk (k.w1 ^^^ k.w2 ^^^ k.w3 ^^^ c)

/-- The subkeys for a list of constants CK, from the four words k[i], k[i+1], k[i+2], k[i+3]: the second form of R71, in which
the words are numbered in one sequence instead of stored at index m mod 4. -/
def subkeys : List Word → Quad → List Word
  | [], _ => []
  | c :: rest, k => subkey k c :: subkeys rest ⟨k.w1, k.w2, k.w3, subkey k c⟩

/-- One subkey per constant. -/
theorem subkeys_length (cs : List Word) (k : Quad) : (subkeys cs k).length = cs.length := by
  induction cs generalizing k with
  | nil => rfl
  | cons c rest ih => simp [subkeys, ih]

/-- The four words the key schedule starts from (R68). -/
def keyWords (key : Block) : Quad :=
  ⟨blockWord key 0 ^^^ fk0, blockWord key 1 ^^^ fk1, blockWord key 2 ^^^ fk2, blockWord key 3 ^^^ fk3⟩

/-- `KeyExpand(key)`: the 32 subkeys (R71). -/
def keyExpand (key : Block) : Vector Word 32 :=
  ⟨(subkeys ckTable (keyWords key)).toArray, by simp [subkeys_length, ckTable]⟩

/-- KEYEXP (R72). -/
def execKeyexp (s : State) : Out :=
  s.raiseIf (decide (s.keylen ≠ Config.keyBytes)) .invalidKeyLength <|
  .next (s.loadSchedule (keyExpand s.key)).succeed

end Sys2Proof.Machine
end

