-- ==== Sys2Proof/Machine/Dispatch.lean ====
section
/-!
DEFINITION. What each command does: one arm per command, each one call of its meaning (R183).
-/

namespace Sys2Proof.Machine

def exec (i : Instr) (s : State) : Host.Outcome State Fault Refusal :=
  match i with
  | .keyexp => Sys2Proof.Machine.execKeyexp s
  | .blkenc => Sys2Proof.Machine.execBlkenc s
  | .gfmul => Sys2Proof.Machine.execGfmul s
  | .ghash => Sys2Proof.Machine.execGhash s
  | .ctrxor => Sys2Proof.Machine.execCtrxor s
  | .aeadenc => Sys2Proof.Machine.execAeadenc s
  | .aeaddec => Sys2Proof.Machine.execAeaddec s

end Sys2Proof.Machine
end

