-- ==== Sys2Proof/Machine/HostPort.lean ====
section
/-!
DEFINITION. The host's side of the CORE: the command port, the register accesses of R22 and R40, the buffer accesses, the reset
event, and the host notation of R186 and R187.
-/

namespace Sys2Proof.Machine

/-- A host write of a word to CMD: the command it encodes runs to completion, an illegal word raises IllegalCommand and does
nothing else (R24, R182, R185). -/
def issue (w : Word) (s : State) : Out :=
  match decode w with
  | .ok i => exec i s
  | .error _ => .next (s.raise .illegalCommand)

/-- The value a host read of a register gives; none where the host cannot read it (R22, R40). -/
def State.hostRead (s : State) : (reg : Reg) → Option (BitVec reg.width)
  | .cmd => none
  | .status => some s.status
  | .keylen => some s.keylen
  | .key => none
  | .noncelen => some s.noncelen
  | .nonce => some s.nonce
  | .aadlen => some s.aadlen
  | .dlen => some s.dlen
  | .outcap => some s.outcap
  | .a => some s.a
  | .b => some s.b
  | .r => some s.r
  | .tag => some s.tag
  | .rk i => some s.rk[i]

/-- A host write of a whole register (R22, R40); a write to CMD issues a command. -/
def hostWrite (s : State) : (reg : Reg) → BitVec reg.width → Out
  | .cmd, w => issue w s
  | .status, _ => .refused (.notHostWritable .status)
  | .keylen, v => .next { s with keylen := v }
  | .key, v => .next { s with key := v }
  | .noncelen, v => .next { s with noncelen := v }
  | .nonce, v => .next { s with nonce := v }
  | .aadlen, v => if v.toNat ≤ s.bufcap.val then .next { s with aadlen := v } else .refused (.lengthAboveBufcap .aadlen)
  | .dlen, v => if v.toNat ≤ s.bufcap.val then .next { s with dlen := v } else .refused (.lengthAboveBufcap .dlen)
  | .outcap, v => .next { s with outcap := v }
  | .a, v => .next { s with a := v }
  | .b, v => .next { s with b := v }
  | .r, _ => .refused (.notHostWritable .r)
  | .tag, v => .next { s with tag := v }
  | .rk i, _ => .refused (.notHostWritable (.rk i))

/-- One step from outside (R40, R160). -/
def serve (ev : HostEvent) (s : State) : Out :=
  match ev with
  | .wr reg v => hostWrite s reg v
  | .wrb sp off bytes =>
    match s.memWrite sp off bytes with
    | some t => .next t
    | none => .refused (.offsetNotBelowBufcap sp)
  | .rd reg =>
    match s.hostRead reg with
    | some v => .next (s.observe (.reg reg v))
    | none => .refused (.notHostReadable reg)
  | .rdb sp off n =>
    match s.memRead sp off n with
    | some bytes => .next (s.observe (.bytes sp off bytes))
    | none => .refused (.offsetNotBelowBufcap sp)
  | .reset data => .next (s.resetEvent data)

/-- A bare mnemonic: the host writes the command's word to CMD (R186). -/
def HostEvent.command (i : Instr) : HostEvent := .wr .cmd (encode i)

/-- `SETKEY k` (R187). -/
def HostEvent.setKey (k : Block) : List HostEvent := [.wr .keylen 16#32, .wr .key k, .command .keyexp]

/-- `SETNONCE n` (R187). -/
def HostEvent.setNonce (n : Nonce) : List HostEvent := [.wr .noncelen 12#32, .wr .nonce n]

/-- `SETDATA AADBUF, bytes` (R187). -/
def HostEvent.setAad (bytes : List Byte) : List HostEvent :=
  [.wrb .aadbuf 0 bytes, .wr .aadlen (BitVec.ofNat 64 bytes.length)]

/-- `SETDATA DINBUF, bytes`, which also sets OUTCAP (R187). -/
def HostEvent.setData (bytes : List Byte) : List HostEvent :=
  [.wrb .dinbuf 0 bytes, .wr .dlen (BitVec.ofNat 64 bytes.length), .wr .outcap (BitVec.ofNat 64 bytes.length)]

end Sys2Proof.Machine
end

