-- ==== Sys2Proof/Machine/Step.lean ====
section
/-!
DEFINITION. One step of the machine: the host's next pending step is taken; with none pending the core is idle and keeps all its
state (R36, R144, R161).
-/

namespace Sys2Proof.Machine

/-- One step. -/
def step (s : State) : Host.Outcome State Fault Refusal :=
  match s.pending with
  | [] => .next s
  | ev :: rest => serve ev (s.setPending rest)

/-- The state in which the host's very next step is to write a word of the opcode table to CMD (R24). -/
def State.withFetchWord (s : State) (nbits w : Nat) : State :=
  s.setPending (.wr .cmd (tableWord nbits w) :: s.pending)

end Sys2Proof.Machine
end

