-- ==== Sys2Proof/WellFormed.lean ====
section
/-!
DEFINITION. Which commands and which host steps the spec gives a meaning. Every command is well formed, because it has no
operand (R184). The well-formed host steps are those R40 lists (the access rights of R22, the legal lengths of R29, buffer offsets
below BUFCAP), the reset step of R160, and a write of OUTCAP above BUFCAP (DESIGN CHOICE, notes/assumptions/5.md).
-/

namespace Sys2Proof

/-- Every command is well formed: no command has an operand that could be out of range (R184). -/
def Instr.wf : Instr → Bool
  | .keyexp => true
  | .blkenc => true
  | .gfmul => true
  | .ghash => true
  | .ctrxor => true
  | .aeadenc => true
  | .aeaddec => true

namespace Machine

/-- R29, U7: AADLEN and DLEN may be written with 0 to BUFCAP only. OUTCAP may hold any 64-bit value (U7 allows
it; DESIGN CHOICE, notes/assumptions/5.md). -/
def Reg.valueLegal (cap : Nat) : (reg : Reg) → BitVec reg.width → Bool
  | .aadlen, v => decide (v.toNat ≤ cap)
  | .dlen, v => decide (v.toNat ≤ cap)
  | .cmd, _ => true
  | .status, _ => true
  | .keylen, _ => true
  | .key, _ => true
  | .noncelen, _ => true
  | .nonce, _ => true
  | .outcap, _ => true
  | .a, _ => true
  | .b, _ => true
  | .r, _ => true
  | .tag, _ => true
  | .rk _, _ => true

/-- The host steps that exist, for a buffer capacity `cap` (BUFCAP): those of R40, and the reset step (R160). -/
def HostEvent.wf (cap : Nat) : HostEvent → Bool
  | .wr reg v => reg.hostWrites && reg.valueLegal cap v
  | .wrb _ off bs => decide (off + bs.length ≤ cap)
  | .rd reg => reg.hostReads
  | .rdb _ off n => decide (off + n ≤ cap)
  | .reset _ => true

end Machine

end Sys2Proof
end

