-- ==== Sys2Proof/Safety.lean ====
section
/-!
DEFINITION. What counts as a legal state and a safe run, in the terms the statements use: the invariants of the machine and the
comparison of two outcomes.
-/

namespace Sys2Proof.Machine

/-- The contents of one buffer space are in canonical form and lie below BUFCAP (R39). -/
abbrev Memory.Legal (cap : Nat) (m : Memory) : Prop := m.wf = true ∧ m.below cap = true

/-- The states the spec describes: a legal outcome code (R23), legal lengths (R29), and three legal buffers (R39). -/
abbrev State.Legal (s : State) : Prop :=
  s.err.toNat ≤ 6 ∧ s.aadlen.toNat ≤ s.bufcap.val ∧ s.dlen.toNat ≤ s.bufcap.val ∧
  s.aadbuf.Legal s.bufcap.val ∧ s.dinbuf.Legal s.bufcap.val ∧ s.doutbuf.Legal s.bufcap.val

/-- STATUS.RKV is 1 only while RK is the schedule of some key (R23, R35). -/
def State.ScheduleValid (s : State) : Prop := s.rkv = true → ∃ key : Block, s.rk = keyExpand key

/-- The bytes of AADBUF[0..AADLEN). -/
def State.aadBytes (s : State) : List Byte := s.aadbuf.readBytes 0 s.aadlen.toNat

/-- The bytes of DINBUF[0..DLEN). -/
def State.dataBytes (s : State) : List Byte := s.dinbuf.readBytes 0 s.dlen.toNat

/-- The lengths name ranges of the buffer spaces that exist (R29). -/
abbrev State.LengthsLegal (s : State) : Prop := s.aadlen.toNat ≤ s.bufcap.val ∧ s.dlen.toNat ≤ s.bufcap.val

/-- An outcome with its next state, if it has one, passed through `f`. -/
def outcomeMap (f : State → State) : Out → Out
  | .next t => .next (f t)
  | .fault e => .fault e
  | .refused e => .refused e

end Sys2Proof.Machine
end

