-- ==== Sys2Proof/Certificates/Slice0/Obligations.lean ====
section
/-!
DEFINITION. The statements about the CORE that are to be proved, each from the rules of spec/ its docstring names.

The words under Sys2Proof.Spec say what the rules say in terms other than the model's own functions: recurrences, single bytes,
polynomials, the literal pseudocode.
-/

open Sys2Proof Sys2Proof.Machine

/-! ### The spec's terms -/

/-- T, written out: byte-wise substitution, then the five terms of L (R75 to R77). -/
def Sys2Proof.Spec.cipherT (w : Word) : Word :=
  let y := be32 (sBox (w.extractLsb' 24 8)) (sBox (w.extractLsb' 16 8)) (sBox (w.extractLsb' 8 8)) (sBox (w.extractLsb' 0 8))
  y ^^^ y.rotateLeft 2 ^^^ y.rotateLeft 10 ^^^ y.rotateLeft 18 ^^^ y.rotateLeft 24

/-- Tk, written out: byte-wise substitution, then the three terms of Lk (R69, R70). -/
def Sys2Proof.Spec.keyT (w : Word) : Word :=
  let y := be32 (sBox (w.extractLsb' 24 8)) (sBox (w.extractLsb' 16 8)) (sBox (w.extractLsb' 8 8)) (sBox (w.extractLsb' 0 8))
  y ^^^ y.rotateLeft 13 ^^^ y.rotateLeft 23

/-- The big-endian word at bytes 4j to 4j + 3 of a block (R50, R78). -/
def Sys2Proof.Spec.wordAt (b : Block) (j : Nat) : Word :=
  be32 (blockByte b (4 * j)) (blockByte b (4 * j + 1)) (blockByte b (4 * j + 2)) (blockByte b (4 * j + 3))

/-- The table of R62 row by row: row r, column c holds S(16 * r + c). -/
def Sys2Proof.Spec.sRows : List (List Byte) :=
  [[0xd6#8, 0x90#8, 0xe9#8, 0xfe#8, 0xcc#8, 0xe1#8, 0x3d#8, 0xb7#8, 0x16#8, 0xb6#8, 0x14#8, 0xc2#8, 0x28#8, 0xfb#8, 0x2c#8, 0x05#8],
   [0x2b#8, 0x67#8, 0x9a#8, 0x76#8, 0x2a#8, 0xbe#8, 0x04#8, 0xc3#8, 0xaa#8, 0x44#8, 0x13#8, 0x26#8, 0x49#8, 0x86#8, 0x06#8, 0x99#8],
   [0x9c#8, 0x42#8, 0x50#8, 0xf4#8, 0x91#8, 0xef#8, 0x98#8, 0x7a#8, 0x33#8, 0x54#8, 0x0b#8, 0x43#8, 0xed#8, 0xcf#8, 0xac#8, 0x62#8],
   [0xe4#8, 0xb3#8, 0x1c#8, 0xa9#8, 0xc9#8, 0x08#8, 0xe8#8, 0x95#8, 0x80#8, 0xdf#8, 0x94#8, 0xfa#8, 0x75#8, 0x8f#8, 0x3f#8, 0xa6#8],
   [0x47#8, 0x07#8, 0xa7#8, 0xfc#8, 0xf3#8, 0x73#8, 0x17#8, 0xba#8, 0x83#8, 0x59#8, 0x3c#8, 0x19#8, 0xe6#8, 0x85#8, 0x4f#8, 0xa8#8],
   [0x68#8, 0x6b#8, 0x81#8, 0xb2#8, 0x71#8, 0x64#8, 0xda#8, 0x8b#8, 0xf8#8, 0xeb#8, 0x0f#8, 0x4b#8, 0x70#8, 0x56#8, 0x9d#8, 0x35#8],
   [0x1e#8, 0x24#8, 0x0e#8, 0x5e#8, 0x63#8, 0x58#8, 0xd1#8, 0xa2#8, 0x25#8, 0x22#8, 0x7c#8, 0x3b#8, 0x01#8, 0x21#8, 0x78#8, 0x87#8],
   [0xd4#8, 0x00#8, 0x46#8, 0x57#8, 0x9f#8, 0xd3#8, 0x27#8, 0x52#8, 0x4c#8, 0x36#8, 0x02#8, 0xe7#8, 0xa0#8, 0xc4#8, 0xc8#8, 0x9e#8],
   [0xea#8, 0xbf#8, 0x8a#8, 0xd2#8, 0x40#8, 0xc7#8, 0x38#8, 0xb5#8, 0xa3#8, 0xf7#8, 0xf2#8, 0xce#8, 0xf9#8, 0x61#8, 0x15#8, 0xa1#8],
   [0xe0#8, 0xae#8, 0x5d#8, 0xa4#8, 0x9b#8, 0x34#8, 0x1a#8, 0x55#8, 0xad#8, 0x93#8, 0x32#8, 0x30#8, 0xf5#8, 0x8c#8, 0xb1#8, 0xe3#8],
   [0x1d#8, 0xf6#8, 0xe2#8, 0x2e#8, 0x82#8, 0x66#8, 0xca#8, 0x60#8, 0xc0#8, 0x29#8, 0x23#8, 0xab#8, 0x0d#8, 0x53#8, 0x4e#8, 0x6f#8],
   [0xd5#8, 0xdb#8, 0x37#8, 0x45#8, 0xde#8, 0xfd#8, 0x8e#8, 0x2f#8, 0x03#8, 0xff#8, 0x6a#8, 0x72#8, 0x6d#8, 0x6c#8, 0x5b#8, 0x51#8],
   [0x8d#8, 0x1b#8, 0xaf#8, 0x92#8, 0xbb#8, 0xdd#8, 0xbc#8, 0x7f#8, 0x11#8, 0xd9#8, 0x5c#8, 0x41#8, 0x1f#8, 0x10#8, 0x5a#8, 0xd8#8],
   [0x0a#8, 0xc1#8, 0x31#8, 0x88#8, 0xa5#8, 0xcd#8, 0x7b#8, 0xbd#8, 0x2d#8, 0x74#8, 0xd0#8, 0x12#8, 0xb8#8, 0xe5#8, 0xb4#8, 0xb0#8],
   [0x89#8, 0x69#8, 0x97#8, 0x4a#8, 0x0c#8, 0x96#8, 0x77#8, 0x7e#8, 0x65#8, 0xb9#8, 0xf1#8, 0x09#8, 0xc5#8, 0x6e#8, 0xc6#8, 0x84#8],
   [0x18#8, 0xf0#8, 0x7d#8, 0xec#8, 0x3a#8, 0xdc#8, 0x4d#8, 0x20#8, 0x79#8, 0xee#8, 0x5f#8, 0x3e#8, 0xd7#8, 0xcb#8, 0x39#8, 0x48#8]]

/-- FK[j] (R64). -/
def Sys2Proof.Spec.fkAt (j : Nat) : Word :=
  [0xa3b1bac6#32, 0x56aa3350#32, 0x677d9197#32, 0xb27022dc#32].getD j 0#32

/-- CK[i] by the closed form of R66: byte j is 7 * (4i + j) modulo 256. -/
def Sys2Proof.Spec.ckAt (i : Nat) : Word :=
  be32 (BitVec.ofNat 8 (7 * (4 * i))) (BitVec.ofNat 8 (7 * (4 * i + 1))) (BitVec.ofNat 8 (7 * (4 * i + 2)))
    (BitVec.ofNat 8 (7 * (4 * i + 3)))

/-- One round of R71's pseudocode: K[i mod 4] is replaced in place and appended to the subkeys. -/
def Sys2Proof.Spec.cyclicRound (st : Vector Word 4 × List Word) (i : Nat) : Vector Word 4 × List Word :=
  let a := st.1[(i + 1) % 4]'(Nat.mod_lt _ (by decide)) ^^^ st.1[(i + 2) % 4]'(Nat.mod_lt _ (by decide)) ^^^
    st.1[(i + 3) % 4]'(Nat.mod_lt _ (by decide)) ^^^ Sys2Proof.Spec.ckAt i
  let w := st.1[i % 4]'(Nat.mod_lt _ (by decide)) ^^^ Sys2Proof.Spec.keyT a
  (st.1.set (i % 4) w (Nat.mod_lt _ (by decide)), st.2 ++ [w])

/-- R71's pseudocode of KeyExpand, with the four words stored at index m mod 4. -/
def Sys2Proof.Spec.cyclicKeyExpand (key : Block) : List Word :=
  ((List.range 32).foldl Sys2Proof.Spec.cyclicRound
    (#v[Sys2Proof.Spec.wordAt key 0 ^^^ Sys2Proof.Spec.fkAt 0, Sys2Proof.Spec.wordAt key 1 ^^^ Sys2Proof.Spec.fkAt 1,
        Sys2Proof.Spec.wordAt key 2 ^^^ Sys2Proof.Spec.fkAt 2, Sys2Proof.Spec.wordAt key 3 ^^^ Sys2Proof.Spec.fkAt 3], [])).2

/-- The polynomial over GF(2) a block stands for: field bit i is the coefficient of x^i (R86). -/
noncomputable def Sys2Proof.Spec.blockPoly (b : Block) : Polynomial (ZMod 2) :=
  ∑ i ∈ Finset.range 128, if (blockByte b (i / 8)).getLsbD (7 - i % 8) then Polynomial.X ^ i else 0

/-- The reduction polynomial x^128 + x^7 + x^2 + x + 1 (R88). -/
noncomputable def Sys2Proof.Spec.fieldPoly : Polynomial (ZMod 2) :=
  Polynomial.X ^ 128 + Polynomial.X ^ 7 + Polynomial.X ^ 2 + Polynomial.X + 1

/-- The tag AEADDEC recomputes over the supplied ciphertext (R118). -/
def Sys2Proof.Spec.expectedTag (s : State) : Block :=
  gHash (blockE s.rk 0#128) s.aadBytes s.dataBytes ^^^ blockE s.rk (s.nonce ++ 1#32)

/-- The outcome code of a word written to CMD: the first condition that holds in the order of R137, with the codes of R131. -/
def Sys2Proof.Spec.outcomeCode (w : Word) (s : State) : BitVec 4 :=
  if w = 1#32 then (if s.keylen ≠ 16#32 then 1#4 else 0#4)
  else if w = 2#32 then (if s.rkv = false then 5#4 else 0#4)
  else if w = 3#32 then 0#4
  else if w = 4#32 then 0#4
  else if w = 5#32 then (if s.rkv = false then 5#4 else if s.outcap < s.dlen then 3#4 else 0#4)
  else if w = 6#32 then
    (if s.rkv = false then 5#4 else if s.noncelen ≠ 12#32 then 2#4 else if s.outcap < s.dlen then 3#4 else 0#4)
  else if w = 7#32 then
    (if s.rkv = false then 5#4 else if s.noncelen ≠ 12#32 then 2#4 else if s.outcap < s.dlen then 3#4
     else if Sys2Proof.Spec.expectedTag s ≠ s.tag then 4#4 else 0#4)
  else 6#4

/-! ### Encoding and issue -/

/-- R183: each command is one complete 32-bit word, and no other word encodes it: decoding and encoding agree in both directions, and
the words are those the table of R183 prints. -/
def Obligations.EachCommandIsOneWord : Prop :=
  ∀ w : Word,
    (∀ i : Instr, i.wf = true → (decode w = .ok i ↔ w = encode i)) ∧
    (decode w = .ok .keyexp ↔ w = 0x00000001#32) ∧
    (decode w = .ok .blkenc ↔ w = 0x00000002#32) ∧
    (decode w = .ok .gfmul ↔ w = 0x00000003#32) ∧
    (decode w = .ok .ghash ↔ w = 0x00000004#32) ∧
    (decode w = .ok .ctrxor ↔ w = 0x00000005#32) ∧
    (decode w = .ok .aeadenc ↔ w = 0x00000006#32) ∧
    (decode w = .ok .aeaddec ↔ w = 0x00000007#32)

/-- R183, R185 on single words: the seven words of the table of R183 as it prints them, and the five illegal words of
95_test_vectors.md V80. -/
def Obligations.WordsOfTheTableDecode : Prop :=
  decode 0x00000001#32 = .ok .keyexp ∧
  decode 0x00000002#32 = .ok .blkenc ∧
  decode 0x00000003#32 = .ok .gfmul ∧
  decode 0x00000004#32 = .ok .ghash ∧
  decode 0x00000005#32 = .ok .ctrxor ∧
  decode 0x00000006#32 = .ok .aeadenc ∧
  decode 0x00000007#32 = .ok .aeaddec ∧
  decode 0x00000000#32 = .error (.unknownOpcode 0x00#8) ∧
  decode 0x00000008#32 = .error (.unknownOpcode 0x08#8) ∧
  decode 0x000000ff#32 = .error (.unknownOpcode 0xff#8) ∧
  decode 0x00000102#32 = .error .zeroFieldNotZero ∧
  decode 0x80000006#32 = .error .zeroFieldNotZero

/-- R182, R185: a word with a bit among [31:8] set, or whose low byte is none of 1 to 7, raises IllegalCommand and changes nothing
else; every other word runs the command of that opcode from the state at the write. -/
def Obligations.EveryWordRunsOrIsIllegal : Prop :=
  ∀ (s : State) (w : Word) (rest : List HostEvent), s.pending = .wr .cmd w :: rest →
    ((w.extractLsb' 8 24 ≠ 0#24 ∨ w.extractLsb' 0 8 = 0#8 ∨ 7 < (w.extractLsb' 0 8).toNat) →
      step s = .next { s with pending := rest, err := 6#4 }) ∧
    (∀ i : Instr, w = 0#24 ++ i.opcode → step s = exec i { s with pending := rest })

/-- R24, R36, R144: a step runs exactly the command whose word the host writes next, after taking that host step off the pending
ones; with no host step pending the core is idle and keeps all its state. That the host's steps are a list the step takes from is the
model's choice (notes/assumptions/6.md). -/
def Obligations.StepRunsTheDecodedCommand : Prop :=
  (∀ (s : State) (w : Word) (i : Instr) (rest : List HostEvent),
    s.pending = .wr .cmd w :: rest → decode w = .ok i → i.wf = true → step s = exec i { s with pending := rest }) ∧
  (∀ (s : State) (i : Instr), step (s.withFetchWord 32 (encode i).toNat) = exec i s) ∧
  (∀ s : State, s.pending = [] → step s = .next s)

/-! ### The host's steps -/

/-- R40, R22, R29, R160: in a legal state every well-formed host step is answered by a next state, whatever word it writes to CMD; in
every state every other host step is refused. Well-formed are the steps R40 lists, the reset step of R160 and, by the model's
choice, a write of OUTCAP above BUFCAP (notes/assumptions/5.md). That a byte string is one step and that reset is a step the host's
list holds are the model's choices too (notes/assumptions/15.md), and so is the refusal (notes/assumptions/7.md). -/
def Obligations.ListedHostStepsAreAnswered : Prop :=
  ∀ (s : State) (ev : HostEvent) (rest : List HostEvent), s.pending = ev :: rest →
    (s.Legal → ev.wf s.bufcap.val = true → ∃ t, step s = .next t) ∧
    (ev.wf s.bufcap.val = false → ∃ e, step s = .refused e)

/-- R40: a host write changes only the register written, and takes any value of its width, but for AADLEN and DLEN, which take
values up to BUFCAP (R29). The model's choices: a larger AADLEN or DLEN is refused (notes/assumptions/7.md), and OUTCAP takes values
above BUFCAP too, which R30 does not list and U7 lets a model allow (notes/assumptions/5.md). -/
def Obligations.HostWriteChangesOneRegister : Prop :=
  ∀ (s : State) (rest : List HostEvent),
    (∀ v : BitVec 32, s.pending = .wr .keylen v :: rest → step s = .next { s with pending := rest, keylen := v }) ∧
    (∀ v : Block, s.pending = .wr .key v :: rest → step s = .next { s with pending := rest, key := v }) ∧
    (∀ v : BitVec 32, s.pending = .wr .noncelen v :: rest → step s = .next { s with pending := rest, noncelen := v }) ∧
    (∀ v : Nonce, s.pending = .wr .nonce v :: rest → step s = .next { s with pending := rest, nonce := v }) ∧
    (∀ v : BitVec 64, s.pending = .wr .aadlen v :: rest →
      step s = if v.toNat ≤ s.bufcap.val then .next { s with pending := rest, aadlen := v }
        else .refused (.lengthAboveBufcap .aadlen)) ∧
    (∀ v : BitVec 64, s.pending = .wr .dlen v :: rest →
      step s = if v.toNat ≤ s.bufcap.val then .next { s with pending := rest, dlen := v }
        else .refused (.lengthAboveBufcap .dlen)) ∧
    (∀ v : BitVec 64, s.pending = .wr .outcap v :: rest → step s = .next { s with pending := rest, outcap := v }) ∧
    (∀ v : Block, s.pending = .wr .a v :: rest → step s = .next { s with pending := rest, a := v }) ∧
    (∀ v : Block, s.pending = .wr .b v :: rest → step s = .next { s with pending := rest, b := v }) ∧
    (∀ v : Block, s.pending = .wr .tag v :: rest → step s = .next { s with pending := rest, tag := v })

/-- R22, R23, R40, R54: what a host read of each register gives; it changes nothing but what the host has seen. KEY and CMD cannot
be read; that such a read is refused is the model's choice (notes/assumptions/7.md). -/
def Obligations.HostReadsGiveTheRegister : Prop :=
  ∀ (s : State) (reg : Reg) (rest : List HostEvent), s.pending = .rd reg :: rest →
    match reg with
    | .cmd => step s = .refused (.notHostReadable .cmd)
    | .status => ∃ v : Word, v.extractLsb' 0 4 = s.err ∧ v.getLsbD 4 = s.rkv ∧ v.extractLsb' 5 27 = 0#27 ∧
        step s = .next { s with pending := rest, seen := s.seen ++ [.reg .status v] }
    | .keylen => step s = .next { s with pending := rest, seen := s.seen ++ [.reg .keylen s.keylen] }
    | .key => step s = .refused (.notHostReadable .key)
    | .noncelen => step s = .next { s with pending := rest, seen := s.seen ++ [.reg .noncelen s.noncelen] }
    | .nonce => step s = .next { s with pending := rest, seen := s.seen ++ [.reg .nonce s.nonce] }
    | .aadlen => step s = .next { s with pending := rest, seen := s.seen ++ [.reg .aadlen s.aadlen] }
    | .dlen => step s = .next { s with pending := rest, seen := s.seen ++ [.reg .dlen s.dlen] }
    | .outcap => step s = .next { s with pending := rest, seen := s.seen ++ [.reg .outcap s.outcap] }
    | .a => step s = .next { s with pending := rest, seen := s.seen ++ [.reg .a s.a] }
    | .b => step s = .next { s with pending := rest, seen := s.seen ++ [.reg .b s.b] }
    | .r => step s = .next { s with pending := rest, seen := s.seen ++ [.reg .r s.r] }
    | .tag => step s = .next { s with pending := rest, seen := s.seen ++ [.reg .tag s.tag] }
    | .rk i => step s = .next { s with pending := rest, seen := s.seen ++ [.reg (.rk i) s.rk[i]] }

/-- R39, R48: a host write of a byte string at offsets below BUFCAP sets those bytes and no other byte of any space, no register. -/
def Obligations.BufferWriteSetsTheseBytes : Prop :=
  ∀ (s : State) (sp : Space) (off : Nat) (bs : List Byte) (rest : List HostEvent),
    s.pending = .wrb sp off bs :: rest → (s.buf sp).wf = true → off + bs.length ≤ s.bufcap.val →
    ∃ t, step s = .next t ∧
      (∀ k, (t.buf sp).read k = if off ≤ k ∧ k < off + bs.length then bs.getD (k - off) 0 else (s.buf sp).read k) ∧
      (∀ sp', sp' ≠ sp → t.buf sp' = s.buf sp') ∧
      t = { s with pending := rest, aadbuf := t.aadbuf, dinbuf := t.dinbuf, doutbuf := t.doutbuf }

/-- R47, R54: a host read of n bytes at offsets below BUFCAP gives them in offset order and changes nothing of the CORE. -/
def Obligations.BufferReadGivesTheseBytes : Prop :=
  ∀ (s : State) (sp : Space) (off n : Nat) (rest : List HostEvent),
    s.pending = .rdb sp off n :: rest → off + n ≤ s.bufcap.val →
    ∃ bs : List Byte, bs.length = n ∧ (∀ k, k < n → bs.getD k 0 = (s.buf sp).read (off + k)) ∧
      step s = .next { s with pending := rest, seen := s.seen ++ [.bytes sp off bs] }

/-- R22: each register has the number its row of the table gives; the numbers 0 to 44 name the registers one to one, and no other
number names one. -/
def Obligations.RegisterNumbersAreTheTable : Prop :=
  (Reg.number .cmd = 0 ∧ Reg.number .status = 1 ∧ Reg.number .keylen = 2 ∧ Reg.number .key = 3 ∧ Reg.number .noncelen = 4 ∧
    Reg.number .nonce = 5 ∧ Reg.number .aadlen = 6 ∧ Reg.number .dlen = 7 ∧ Reg.number .outcap = 8 ∧ Reg.number .a = 9 ∧
    Reg.number .b = 10 ∧ Reg.number .r = 11 ∧ Reg.number .tag = 12 ∧ ∀ i : Fin 32, Reg.number (.rk i) = 13 + i.val) ∧
  (∀ (n : Nat) (reg : Reg), Reg.ofNumber n = some reg ↔ reg.number = n) ∧ (∀ n : Nat, 44 < n → Reg.ofNumber n = none) ∧
  (∀ n : Nat, n ≤ 44 → ∃ reg, Reg.ofNumber n = some reg)

/-! ### Reset -/

/-- R41, R160: after reset STATUS and the five length registers are zero, and every other register and every buffer byte below
BUFCAP holds RESET_DATA, whatever it is. The model's choices: the host's own record stays (notes/assumptions/6.md), and a RESET_DATA
that lists fewer bytes than BUFCAP stands for zeros after them (notes/assumptions/3.md). -/
def Obligations.ResetLeavesZeroLengthsAndResetData : Prop :=
  ∀ (s : State) (d : ResetData) (rest : List HostEvent), s.pending = .reset d :: rest →
    ∃ t, step s = .next t ∧
      t.status = 0#32 ∧ t.keylen = 0#32 ∧ t.noncelen = 0#32 ∧ t.aadlen = 0#64 ∧ t.dlen = 0#64 ∧ t.outcap = 0#64 ∧
      t.key = d.key ∧ t.nonce = d.nonce ∧ t.a = d.a ∧ t.b = d.b ∧ t.r = d.r ∧ t.tag = d.tag ∧ t.rk = d.rk ∧
      (∀ k, k < s.bufcap.val → t.aadbuf.read k = d.aadbuf.getD k 0 ∧ t.dinbuf.read k = d.dinbuf.getD k 0 ∧
        t.doutbuf.read k = d.doutbuf.getD k 0) ∧
      t.bufcap = s.bufcap ∧ t.pending = rest ∧ t.seen = s.seen

/-- R41: for every BUFCAP and every RESET_DATA, after reset the commands that need a key fail with NoKeySchedule and KEYEXP fails
with InvalidKeyLength, while GFMUL and GHASH run; nothing but STATUS.ERR, and R for those two, changes. -/
def Obligations.FirstCommandAfterReset : Prop :=
  ∀ (cap : Fin (2 ^ 61)) (d : ResetData),
    (∀ i : Instr, i = .blkenc ∨ i = .ctrxor ∨ i = .aeadenc ∨ i = .aeaddec →
      exec i (State.resetWith cap d) = .next { State.resetWith cap d with err := 5#4 }) ∧
    exec .keyexp (State.resetWith cap d) = .next { State.resetWith cap d with err := 1#4 } ∧
    exec .gfmul (State.resetWith cap d) = .next { State.resetWith cap d with r := gfMul d.a d.b } ∧
    exec .ghash (State.resetWith cap d) = .next { State.resetWith cap d with r := 0#128 }

/-- R23, R29, R35, R39, R41: the state after reset is legal and its round keys are not claimed valid, for every BUFCAP and
RESET_DATA; State.reset is one of these states, with the model's own values for the two (notes/assumptions/1.md and 2.md). -/
def Obligations.ResetStateIsLegal : Prop :=
  (∀ (cap : Fin (2 ^ 61)) (d : ResetData), (State.resetWith cap d).Legal ∧ (State.resetWith cap d).ScheduleValid) ∧
  State.reset = State.resetWith Config.bufcap Config.resetData

/-! ### Invariants and whole-machine rules -/

/-- R23, R29, R39: every step from a legal state ends in a legal state: STATUS.ERR is at most 6, AADLEN and DLEN are at most BUFCAP,
every buffer is canonical and has no byte at BUFCAP or above. -/
def Obligations.StepKeepsLegalStates : Prop :=
  ∀ s t : State, s.Legal → step s = .next t → t.Legal

/-- R23, R35: every step keeps this: STATUS.RKV is 1 only while RK is the schedule of some key. -/
def Obligations.StepKeepsRoundKeysASchedule : Prop :=
  ∀ s t : State, s.ScheduleValid → step s = .next t → t.ScheduleValid

/-- R34, R42, R160: RK and STATUS.RKV change only in a reset or in a KEYEXP issued with KEYLEN = 16. -/
def Obligations.OnlyKeyexpOrResetChangesTheSchedule : Prop :=
  ∀ s t : State, step s = .next t → t.rk ≠ s.rk ∨ t.rkv ≠ s.rkv →
    (∃ d rest, s.pending = .reset d :: rest) ∨
    (s.keylen = 16#32 ∧ ∃ rest, s.pending = .wr .cmd 0x00000001#32 :: rest)

/-- R45, R36, R54: no step changes BUFCAP; each step takes at most the next pending host step; what the host has read is never
taken back. The pending steps and what was read are the model's own fields (notes/assumptions/6.md). -/
def Obligations.StepTakesOneHostStep : Prop :=
  ∀ s t : State, step s = .next t →
    t.bufcap = s.bufcap ∧ t.pending = s.pending.tail ∧ s.seen <+: t.seen

/-- R26, R42, R74: KEY is read by KEYEXP alone. A step that is neither a KEYEXP, nor a host write of KEY, nor a reset gives the same
outcome whatever KEY holds, what the host has read included, and leaves KEY as it was. -/
def Obligations.KeyIsReadByKeyexpAlone : Prop :=
  ∀ (s : State) (k : Block),
    (∀ rest, s.pending ≠ .wr .cmd 0x00000001#32 :: rest) → (∀ v rest, s.pending ≠ .wr .key v :: rest) →
    (∀ d rest, s.pending ≠ .reset d :: rest) →
    step { s with key := k } = outcomeMap (fun t => { t with key := k }) (step s)

/-- R135, R136: a command that ends with an error code has changed STATUS.ERR and nothing else, whatever word was written to CMD. -/
def Obligations.FailingCommandChangesOnlyErr : Prop :=
  ∀ (w : Word) (s t : State), issue w s = .next t → t.err ≠ 0#4 → t = { s with err := t.err }

/-- R131, R137: every word written to CMD ends with exactly the outcome code of the first condition that holds in R137's order. -/
def Obligations.OutcomeCodeIsTheFirstInPriority : Prop :=
  ∀ (w : Word) (s : State), s.Legal → ∃ t, issue w s = .next t ∧ t.err = Sys2Proof.Spec.outcomeCode w s

/-- R37, R138: no command reads STATUS.ERR, and every command overwrites it: whatever code an earlier command left, the outcome
is the same. -/
def Obligations.NoCommandReadsErr : Prop :=
  ∀ (i : Instr) (s : State) (c : BitVec 4), exec i { s with err := c } = exec i s

/-- R139: reissuing a command that failed, on the state it left, raises the same error again. -/
def Obligations.RetryFailsTheSameWay : Prop :=
  ∀ (w : Word) (s t : State), issue w s = .next t → t.err ≠ 0#4 → issue w t = .next t

/-- R43, R56: what each command leaves unchanged, on success and on failure: every input register and buffer; R but for BLKENC, GFMUL
and GHASH; TAG but for AEADENC; RK and RKV but for KEYEXP; DOUTBUF but for CTRXOR, AEADENC and AEADDEC, which leave every byte at
offset DLEN and above. -/
def Obligations.CommandsWriteOnlyTheirWriteSet : Prop :=
  ∀ (i : Instr) (s t : State), exec i s = .next t →
    (t.keylen = s.keylen ∧ t.key = s.key ∧ t.noncelen = s.noncelen ∧ t.nonce = s.nonce ∧ t.aadlen = s.aadlen ∧
      t.dlen = s.dlen ∧ t.outcap = s.outcap ∧ t.a = s.a ∧ t.b = s.b ∧ t.aadbuf = s.aadbuf ∧ t.dinbuf = s.dinbuf ∧
      t.bufcap = s.bufcap ∧ t.pending = s.pending ∧ t.seen = s.seen) ∧
    (i ≠ .blkenc → i ≠ .gfmul → i ≠ .ghash → t.r = s.r) ∧
    (i ≠ .aeadenc → t.tag = s.tag) ∧
    (i ≠ .keyexp → t.rk = s.rk ∧ t.rkv = s.rkv) ∧
    (i ≠ .ctrxor → i ≠ .aeadenc → i ≠ .aeaddec → t.doutbuf = s.doutbuf) ∧
    (∀ k, s.dlen.toNat ≤ k → t.doutbuf.read k = s.doutbuf.read k)

/-- R47, R137, U7 of 93_implementation_defined.md: a command whose register checks pass, and that names a buffer range ending above
BUFCAP, stops with the fault that says so. The fault is the model's form of U7's refusal (notes/assumptions/4.md). -/
def Obligations.LengthAboveBufcapFaults : Prop :=
  ∀ s : State,
    (s.bufcap.val < s.aadlen.toNat → exec .ghash s = .fault (.noSuchBufferRange .aadbuf)) ∧
    (s.aadlen.toNat ≤ s.bufcap.val → s.bufcap.val < s.dlen.toNat → exec .ghash s = .fault (.noSuchBufferRange .dinbuf)) ∧
    (s.rkv = true → s.dlen ≤ s.outcap → s.bufcap.val < s.dlen.toNat →
      exec .ctrxor s = .fault (.noSuchBufferRange .dinbuf)) ∧
    (∀ i : Instr, i = .aeadenc ∨ i = .aeaddec → s.rkv = true → s.noncelen = 12#32 → s.dlen ≤ s.outcap →
      (s.bufcap.val < s.aadlen.toNat → exec i s = .fault (.noSuchBufferRange .aadbuf)) ∧
      (s.aadlen.toNat ≤ s.bufcap.val → s.bufcap.val < s.dlen.toNat → exec i s = .fault (.noSuchBufferRange .dinbuf)))

/-! ### Tables, key schedule, block transform -/

/-- R62 to R66: each of the 256 entries of S is the one R62's table prints, S is a permutation of the byte values, among them the spot
values of V7, the FK words are those of R64, and CK has 32 words that obey the closed form of R66. That these contents are the
hardware's is presumed: the spec supplied them from general knowledge (notes/assumptions/11.md). -/
def Obligations.TablesAreThoseOfTheSpec : Prop :=
  (∀ r c, r < 16 → c < 16 → sBox (BitVec.ofNat 8 (16 * r + c)) = (Sys2Proof.Spec.sRows.getD r []).getD c 0x00#8) ∧
  Function.Bijective sBox ∧
  (sBox 0x00#8 = 0xd6#8 ∧ sBox 0x01#8 = 0x90#8 ∧ sBox 0x0f#8 = 0x05#8 ∧ sBox 0x10#8 = 0x2b#8 ∧ sBox 0x71#8 = 0x00#8 ∧
    sBox 0x7f#8 = 0x9e#8 ∧ sBox 0x80#8 = 0xea#8 ∧ sBox 0xd6#8 = 0x7b#8 ∧ sBox 0xef#8 = 0x84#8 ∧ sBox 0xff#8 = 0x48#8) ∧
  (fk0 = 0xa3b1bac6#32 ∧ fk1 = 0x56aa3350#32 ∧ fk2 = 0x677d9197#32 ∧ fk3 = 0xb27022dc#32) ∧
  ckTable.length = 32 ∧ (∀ i, i < 32 → ckTable.getD i 0#32 = Sys2Proof.Spec.ckAt i)

/-- R75: tau replaces each byte of a word by its S entry in its position, and is a bijection on words. -/
def Obligations.TauIsBytewiseAndBijective : Prop :=
  (∀ b0 b1 b2 b3 : Byte, tau (be32 b0 b1 b2 b3) = be32 (sBox b0) (sBox b1) (sBox b2) (sBox b3)) ∧ Function.Bijective tau

/-- R69, R76: L and Lk are the xor of the word and its left rotations named there, and are linear over xor. -/
def Obligations.LinearLayersAreLinear : Prop :=
  (∀ w : Word, linearL w = w ^^^ w.rotateLeft 2 ^^^ w.rotateLeft 10 ^^^ w.rotateLeft 18 ^^^ w.rotateLeft 24) ∧
  (∀ a b : Word, linearL (a ^^^ b) = linearL a ^^^ linearL b) ∧ linearL 0#32 = 0#32 ∧
  (∀ w : Word, linearLk w = w ^^^ w.rotateLeft 13 ^^^ w.rotateLeft 23) ∧
  (∀ a b : Word, linearLk (a ^^^ b) = linearLk a ^^^ linearLk b) ∧ linearLk 0#32 = 0#32

/-- R68, R71, R72: KEYEXP with KEYLEN = 16 loads RK with the sequence the key determines, sets RKV and clears ERR, and changes
nothing else; with any other KEYLEN it raises InvalidKeyLength. -/
def Obligations.KeyexpLoadsTheSchedule : Prop :=
  decode 0x00000001#32 = .ok .keyexp ∧
  ∀ s : State,
    (s.keylen = 16#32 →
      ∃ (rk : Vector Word 32) (k : Nat → Word),
        exec .keyexp s = .next { s with rk := rk, rkv := true, err := 0#4 } ∧
        (∀ j, j < 4 → k j = Sys2Proof.Spec.wordAt s.key j ^^^ Sys2Proof.Spec.fkAt j) ∧
        (∀ i, i < 32 → k (i + 4) =
          k i ^^^ Sys2Proof.Spec.keyT (k (i + 1) ^^^ k (i + 2) ^^^ k (i + 3) ^^^ Sys2Proof.Spec.ckAt i)) ∧
        (∀ i : Fin 32, rk[i] = k (i.val + 4))) ∧
    (s.keylen ≠ 16#32 → exec .keyexp s = .next { s with err := 1#4 })

/-- R71: the key schedule of the model is the pseudocode of R71, with the words stored at index m mod 4. -/
def Obligations.KeyScheduleIsTheCyclicPseudocode : Prop :=
  ∀ key : Block, (keyExpand key).toList = Sys2Proof.Spec.cyclicKeyExpand key

/-- R78, R80: BLKENC with RKV = 1 writes R with the output of the transform and clears ERR, and changes nothing else; the output is the
last four words of the sequence in reverse order, big-endian. With RKV = 0 it raises NoKeySchedule. -/
def Obligations.BlkencWritesTheTransform : Prop :=
  decode 0x00000002#32 = .ok .blkenc ∧
  ∀ s : State,
    (s.rkv = true →
      ∃ (out : Block) (x : Nat → Word),
        exec .blkenc s = .next { s with r := out, err := 0#4 } ∧
        (∀ j, j < 4 → x j = Sys2Proof.Spec.wordAt s.a j) ∧
        (∀ i : Fin 32, x (i.val + 4) =
          x i.val ^^^ Sys2Proof.Spec.cipherT (x (i.val + 1) ^^^ x (i.val + 2) ^^^ x (i.val + 3) ^^^ s.rk[i])) ∧
        (∀ j, j < 4 → Sys2Proof.Spec.wordAt out j = x (35 - j))) ∧
    (s.rkv = false → exec .blkenc s = .next { s with err := 5#4 })

/-- R79: for fixed round keys the block transform is a bijection on blocks. -/
def Obligations.BlockTransformIsBijective : Prop :=
  ∀ rk : Vector Word 32, Function.Bijective (blockE rk)

/-! ### Multiplier and accumulator -/

/-- R86, R88, R89: GFMUL answers in every state, without a key schedule too, writes R and clears ERR and changes nothing else; R is the
product of the polynomials A and B stand for, modulo x^128 + x^7 + x^2 + x + 1. -/
def Obligations.GfmulMultipliesPolynomials : Prop :=
  ∀ s : State, ∃ z : Block,
    exec .gfmul s = .next { s with r := z, err := 0#4 } ∧
    ∃ q : Polynomial (ZMod 2),
      Sys2Proof.Spec.blockPoly s.a * Sys2Proof.Spec.blockPoly s.b =
        Sys2Proof.Spec.blockPoly z + q * Sys2Proof.Spec.fieldPoly

/-- R90: the laws of the multiplication. -/
def Obligations.GfmulObeysTheRingLaws : Prop :=
  ∀ x y w : Block,
    gfMul x y = gfMul y x ∧
    gfMul (gfMul x y) w = gfMul x (gfMul y w) ∧
    gfMul (x ^^^ w) y = gfMul x y ^^^ gfMul w y ∧
    gfMul 0#128 y = 0#128 ∧
    gfMul 0x80000000000000000000000000000000#128 y = y

/-- R51, R87: the right shift by one bit across the 16 bytes, byte by byte, with 0xE1 xored into byte 0 when bit 0 of byte 15 was 1. -/
def Obligations.ShiftCrossesTheBytes : Prop :=
  ∀ v : Block,
    (∀ k, 1 ≤ k → k < 16 →
      blockByte (shiftReduce v) k = (blockByte v k >>> 1) ||| ((blockByte v (k - 1) &&& 0x01#8) <<< 7)) ∧
    blockByte (shiftReduce v) 0 =
      if blockByte v 15 &&& 0x01#8 = 0x01#8 then (blockByte v 0 >>> 1) ^^^ 0xE1#8 else blockByte v 0 >>> 1

/-- R93, R97, R98: GHASH folds, from zero, the zero-padded chunks of AADBUF[0..AADLEN), those of DINBUF[0..DLEN) and one length block,
each by xor and multiplication with B; it writes R, clears ERR and changes nothing else, and raises no error. -/
def Obligations.GhashFoldsTheThreeFields : Prop :=
  decode 0x00000004#32 = .ok .ghash ∧
  ∀ s : State, s.LengthsLegal →
    ∃ aadBlocks dataBlocks : List Block,
      exec .ghash s = .next { s with
        r := (aadBlocks ++ dataBlocks ++ [BitVec.ofNat 64 (8 * s.aadlen.toNat) ++ BitVec.ofNat 64 (8 * s.dlen.toNat)]).foldl
          (fun y blk => gfMul (y ^^^ blk) s.b) 0#128,
        err := 0#4 } ∧
      aadBlocks.length = (s.aadlen.toNat + 15) / 16 ∧ dataBlocks.length = (s.dlen.toNat + 15) / 16 ∧
      (∀ j k, j < aadBlocks.length → k < 16 →
        blockByte (aadBlocks.getD j 0#128) k = if 16 * j + k < s.aadlen.toNat then s.aadbuf.read (16 * j + k) else 0x00#8) ∧
      (∀ j k, j < dataBlocks.length → k < 16 →
        blockByte (dataBlocks.getD j 0#128) k = if 16 * j + k < s.dlen.toNat then s.dinbuf.read (16 * j + k) else 0x00#8)

/-- R96: the length block holds the two lengths in bits, eight times the byte counts, without wrapping up to 2^61 - 1 bytes. -/
def Obligations.LengthBlockHoldsBitLengths : Prop :=
  ∀ a c : Nat, a ≤ 2 ^ 61 - 1 → c ≤ 2 ^ 61 - 1 →
    ((lenBlock a c).extractLsb' 64 64).toNat = 8 * a ∧ ((lenBlock a c).extractLsb' 0 64).toNat = 8 * c

/-- R99: with empty AAD and empty ciphertext the accumulator is GFMul(LenBlock(0,0), H), which is zero for every H, and the tag of an
AEAD call with no AAD and no data is the tag mask alone. -/
def Obligations.EmptyInputGhashIsZero : Prop :=
  ∀ (h : Block) (rk : Vector Word 32) (nonce : Nonce),
    gHash h [] [] = gfMul (0#128 ^^^ lenBlock 0 0) h ∧ gHash h [] [] = 0#128 ∧
    sealMessage rk nonce [] [] = ([], blockE rk (nonce ++ 1#32))

/-- R102: for the zero subkey every input folds to zero. -/
def Obligations.ZeroSubkeyFoldsToZero : Prop :=
  ∀ aad ct : List Byte, gHash 0#128 aad ct = 0#128

/-! ### Counter mode -/

/-- R104: the count, bytes 12 to 15 big-endian, goes up by one modulo 2^32, and bytes 0 to 11 are untouched. -/
def Obligations.IncrementStaysInTheCount : Prop :=
  ∀ c : Block,
    (∀ k, k < 12 → blockByte (inc32 c) k = blockByte c k) ∧
    (Sys2Proof.Spec.wordAt (inc32 c) 3).toNat = ((Sys2Proof.Spec.wordAt c 3).toNat + 1) % 2 ^ 32

/-- R105, R106, R109: CTRXOR with RKV = 1 and OUTCAP at least DLEN writes byte k of DOUTBUF, for k below DLEN, with byte k of DINBUF xor
byte k mod 16 of the keystream block whose counter is A with its count k / 16 further (modulo 2^32); every other byte of DOUTBUF and
every other register keeps its value, and ERR is cleared. Otherwise NoKeySchedule is raised, or else BufferLengthMismatch. -/
def Obligations.CtrxorXorsTheKeystream : Prop :=
  decode 0x00000005#32 = .ok .ctrxor ∧
  ∀ s : State,
    (s.rkv = true → s.dlen ≤ s.outcap → s.dlen.toNat ≤ s.bufcap.val → s.doutbuf.wf = true →
      ∃ m : Memory, exec .ctrxor s = .next { s with doutbuf := m, err := 0#4 } ∧
        ∀ k, m.read k = if k < s.dlen.toNat then
            s.dinbuf.read k ^^^ blockByte (blockE s.rk
              (s.a.extractLsb' 32 96 ++ (s.a.extractLsb' 0 32 + BitVec.ofNat 32 (k / 16)))) (k % 16)
          else s.doutbuf.read k) ∧
    (s.rkv = false → exec .ctrxor s = .next { s with err := 5#4 }) ∧
    (s.rkv = true → s.outcap < s.dlen → exec .ctrxor s = .next { s with err := 3#4 })

/-- R107, R108: the counter-mode pass keeps the length and is its own inverse. -/
def Obligations.CounterModeIsItsOwnInverse : Prop :=
  ∀ (rk : Vector Word 32) (ctr : Block) (data : List Byte),
    (ctrXor rk ctr data).length = data.length ∧ ctrXor rk ctr (ctrXor rk ctr data) = data

/-! ### Authenticated encryption -/

/-- R112 to R116: AEADENC with RKV = 1, NONCELEN = 12 and OUTCAP at least DLEN writes byte k of DOUTBUF, for k below DLEN, with plaintext
byte k xor byte k mod 16 of E(RK, NONCE || 2 + k / 16), and TAG with the GHash, under H = E(RK, 0), of the AAD and that ciphertext xor
E(RK, NONCE || 1); every other byte of DOUTBUF and every other register keeps its value, and ERR is cleared. Otherwise it raises
NoKeySchedule, or else InvalidNonceLength, or else BufferLengthMismatch. -/
def Obligations.AeadencSealsTheMessage : Prop :=
  decode 0x00000006#32 = .ok .aeadenc ∧
  ∀ s : State,
    (s.rkv = true → s.noncelen = 12#32 → s.dlen ≤ s.outcap → s.LengthsLegal → s.doutbuf.wf = true →
      ∃ (m : Memory) (tag : Block), exec .aeadenc s = .next { s with doutbuf := m, tag := tag, err := 0#4 } ∧
        (∀ k, m.read k = if k < s.dlen.toNat then
            s.dinbuf.read k ^^^ blockByte (blockE s.rk (s.nonce ++ BitVec.ofNat 32 (2 + k / 16))) (k % 16)
          else s.doutbuf.read k) ∧
        tag = gHash (blockE s.rk 0#128) (s.aadbuf.readBytes 0 s.aadlen.toNat) (m.readBytes 0 s.dlen.toNat) ^^^
          blockE s.rk (s.nonce ++ 1#32)) ∧
    (s.rkv = false → exec .aeadenc s = .next { s with err := 5#4 }) ∧
    (s.rkv = true → s.noncelen ≠ 12#32 → exec .aeadenc s = .next { s with err := 2#4 }) ∧
    (s.rkv = true → s.noncelen = 12#32 → s.outcap < s.dlen → exec .aeadenc s = .next { s with err := 3#4 })

/-- R117 to R121: AEADDEC, with its register checks passed, compares all of TAG with the tag recomputed over the supplied ciphertext. If
they are equal it writes byte k of DOUTBUF, for k below DLEN, with the plaintext, clears ERR and changes nothing else; if not it
raises AuthenticationFailure, and no byte of DOUTBUF changes. Before that it raises NoKeySchedule, or else InvalidNonceLength, or
else BufferLengthMismatch, whatever TAG holds. -/
def Obligations.AeaddecVerifiesBeforeRelease : Prop :=
  decode 0x00000007#32 = .ok .aeaddec ∧
  ∀ s : State,
    (s.rkv = true → s.noncelen = 12#32 → s.dlen ≤ s.outcap → s.LengthsLegal → s.doutbuf.wf = true →
      (s.tag = Sys2Proof.Spec.expectedTag s →
        ∃ m : Memory, exec .aeaddec s = .next { s with doutbuf := m, err := 0#4 } ∧
          ∀ k, m.read k = if k < s.dlen.toNat then
              s.dinbuf.read k ^^^ blockByte (blockE s.rk (s.nonce ++ BitVec.ofNat 32 (2 + k / 16))) (k % 16)
            else s.doutbuf.read k) ∧
      (s.tag ≠ Sys2Proof.Spec.expectedTag s → exec .aeaddec s = .next { s with err := 4#4 })) ∧
    (s.rkv = false → exec .aeaddec s = .next { s with err := 5#4 }) ∧
    (s.rkv = true → s.noncelen ≠ 12#32 → exec .aeaddec s = .next { s with err := 2#4 }) ∧
    (s.rkv = true → s.noncelen = 12#32 → s.outcap < s.dlen → exec .aeaddec s = .next { s with err := 3#4 })

/-- R117: the comparison is true exactly when all 16 bytes are equal. -/
def Obligations.TagComparisonCoversAllBytes : Prop :=
  ∀ t u : Block, tagEqual t u = true ↔ ∀ k, k < 16 → blockByte t k = blockByte u k

/-- R122: for every key schedule, nonce, AAD and plaintext: AEADDEC of what AEADENC wrote, under the same nonce and AAD and with the TAG it
left, verifies and gives the plaintext back. -/
def Obligations.DecryptOfEncryptIsThePlaintext : Prop :=
  ∀ (s t : State) (m : Memory), s.Legal → exec .aeadenc s = .next t → t.err = 0#4 →
    (∀ k, k < s.dlen.toNat → m.read k = t.doutbuf.read k) →
    ∃ u, exec .aeaddec { t with dinbuf := m } = .next u ∧ u.err = 0#4 ∧
      ∀ k, k < s.dlen.toNat → u.doutbuf.read k = s.dinbuf.read k

/-- R123, its clause on the tag: where a tag verifies, every other tag is rejected with AuthenticationFailure and nothing is written. -/
def Obligations.WrongTagIsRejected : Prop :=
  ∀ (s t : State) (g : Block), exec .aeaddec s = .next t → t.err = 0#4 → g ≠ s.tag →
    exec .aeaddec { s with tag := g } = .next { s with tag := g, err := 4#4 }

/-- R123, its clauses on ciphertext and AAD, with the premise the rule asks for, that H is not zero: where a message verifies, the message
with any single bit of ciphertext or AAD flipped is rejected. -/
def Obligations.FlippedBitIsRejected : Prop :=
  ∀ (s t : State) (k b : Nat), s.Legal → exec .aeaddec s = .next t → t.err = 0#4 → blockE s.rk 0#128 ≠ 0#128 → b < 8 →
    (k < s.dlen.toNat →
      exec .aeaddec { s with dinbuf := s.dinbuf.write k (s.dinbuf.read k ^^^ BitVec.twoPow 8 b) } =
        .next { s with dinbuf := s.dinbuf.write k (s.dinbuf.read k ^^^ BitVec.twoPow 8 b), err := 4#4 }) ∧
    (k < s.aadlen.toNat →
      exec .aeaddec { s with aadbuf := s.aadbuf.write k (s.aadbuf.read k ^^^ BitVec.twoPow 8 b) } =
        .next { s with aadbuf := s.aadbuf.write k (s.aadbuf.read k ^^^ BitVec.twoPow 8 b), err := 4#4 })

/-- R124: the ciphertext and the tag of AEADENC are a function of RK, NONCE, the AAD bytes and the plaintext bytes alone. -/
def Obligations.AeadencDependsOnItsOperandsAlone : Prop :=
  ∀ s s' t t' : State, s.doutbuf.wf = true → s'.doutbuf.wf = true →
    exec .aeadenc s = .next t → exec .aeadenc s' = .next t' → t.err = 0#4 → t'.err = 0#4 →
    s.rk = s'.rk → s.nonce = s'.nonce → s.aadlen = s'.aadlen → s.dlen = s'.dlen →
    (∀ k, k < s.aadlen.toNat → s.aadbuf.read k = s'.aadbuf.read k) →
    (∀ k, k < s.dlen.toNat → s.dinbuf.read k = s'.dinbuf.read k) →
    t.tag = t'.tag ∧ ∀ k, k < s.dlen.toNat → t.doutbuf.read k = t'.doutbuf.read k

/-- R188: AEADENC's results from the primitive commands: H by BLKENC of the zero block, the ciphertext by CTRXOR from NONCE || 2, Y by
GHASH with B = H over the AAD and that ciphertext, the tag mask by BLKENC of J0, and the tag by xor. -/
def Obligations.AeadencIsComposedOfPrimitives : Prop :=
  ∀ (s t t1 t2 t3 t4 : State) (m : Memory), s.Legal → exec .aeadenc s = .next t → t.err = 0#4 →
    exec .blkenc { s with a := 0#128 } = .next t1 →
    exec .ctrxor { s with a := s.nonce ++ 2#32 } = .next t2 →
    (∀ k, k < s.dlen.toNat → m.read k = t2.doutbuf.read k) →
    exec .ghash { s with b := t1.r, dinbuf := m } = .next t3 →
    exec .blkenc { s with a := s.nonce ++ 1#32 } = .next t4 →
    t.tag = t3.r ^^^ t4.r ∧ t.doutbuf = t2.doutbuf
end

