-- ==== Sys2Proof/Laws/Bytes.lean ====
section
/-!
SUPPORT. Byte strings and chunks: lengths, and the two equations by which a field is taken apart chunk by chunk (R52).
-/

namespace Sys2Proof.Machine

@[simp] theorem blockBytes_length (b : Block) : (blockBytes b).length = 16 := by simp [blockBytes]

/-- Byte k of a block's byte string. -/
theorem getElem_blockBytes (b : Block) (k : Nat) (h : k < (blockBytes b).length) : (blockBytes b)[k] = blockByte b k := by
  simp [blockBytes]

@[simp] theorem chunkCount_zero : chunkCount 0 = 0 := rfl

theorem chunkCount_add (n : Nat) : chunkCount (n + 16) = chunkCount n + 1 := by
  unfold chunkCount; omega

/-- An empty field has no chunks. -/
@[simp] theorem chunks_nil : chunks [] = [] := rfl

@[simp] theorem chunks_length (field : List Byte) : (chunks field).length = chunkCount field.length := by
  simp [chunks]

/-- A field of 1 to 16 bytes is one chunk. -/
theorem chunks_short {field : List Byte} (h0 : field ≠ []) (h : field.length ≤ 16) : chunks field = [field] := by
  have hpos : 0 < field.length := List.length_pos_iff.mpr h0
  have hc : chunkCount field.length = 1 := by unfold chunkCount; omega
  simp [chunks, hc, List.range_succ, chunk, List.take_of_length_le h]

/-- A chunk of 16 bytes comes off the front of a field. -/
theorem chunks_append {c : List Byte} (hc : c.length = 16) (field : List Byte) : chunks (c ++ field) = c :: chunks field := by
  have hlen : chunkCount (c ++ field).length = chunkCount field.length + 1 := by
    rw [List.length_append, hc, Nat.add_comm, chunkCount_add]
  rw [chunks, hlen, List.range_succ_eq_map, List.map_cons, List.map_map, chunks]
  congr 1
  · simp [chunk, ← hc]
  · apply List.map_congr_left
    intro j _
    have : 16 * (j + 1) = c.length + 16 * j := by omega
    have hnil : c.drop (c.length + 16 * j) = [] := List.drop_of_length_le (by omega)
    simp [chunk, this, List.drop_append, hnil]

/-- A non-empty field taken apart: its first 16 bytes or fewer, then the chunks of the rest. -/
theorem chunks_eq {field : List Byte} (h : field ≠ []) : chunks field = field.take 16 :: chunks (field.drop 16) := by
  by_cases hl : field.length ≤ 16
  · rw [chunks_short h hl, List.take_of_length_le hl, List.drop_of_length_le hl, chunks_nil]
  · have hc : (field.take 16).length = 16 := by simp; omega
    conv_lhs => rw [← List.take_append_drop 16 field]
    exact chunks_append hc _

/-- The chunks of a field in order are the field. -/
theorem flatten_chunks (field : List Byte) : (chunks field).flatten = field := by
  induction hn : field.length using Nat.strong_induction_on generalizing field with
  | _ n ih =>
    by_cases h : field = []
    · simp [h]
    · have hpos : 0 < field.length := List.length_pos_iff.mpr h
      rw [chunks_eq h, List.flatten_cons, ih (field.drop 16).length (by simp; omega) _ rfl, List.take_append_drop]

/-- No chunk is empty and none is longer than 16 bytes (R53). -/
theorem chunk_length_of_mem {field c : List Byte} (h : c ∈ chunks field) : 1 ≤ c.length ∧ c.length ≤ 16 := by
  simp only [chunks, List.mem_map, List.mem_range, chunkCount] at h
  obtain ⟨j, hj, rfl⟩ := h
  simp only [chunk, List.length_take, List.length_drop]
  omega

end Sys2Proof.Machine
end

