-- ==== Sys2Proof/Laws/CounterMode.lean ====
section
/-!
SUPPORT. What the counter-mode pass gives: its length, and each of its bytes.
-/

namespace Sys2Proof.Machine

/-- The counter block `n` increments after `c`: bytes 0 to 11 stay, the count goes up by n modulo 2^32 (R104). -/
def counterAt (c : Block) (n : Nat) : Block := counterHead c ++ (c.extractLsb' 0 32 + BitVec.ofNat 32 n)

theorem counterCount_eq (c : Block) : counterCount c = c.extractLsb' 0 32 := by
  apply BitVec.eq_of_getLsbD_eq
  intro i hi
  simp only [counterCount, blockWord, be32, blockByte, BitVec.getLsbD_append, BitVec.getLsbD_extractLsb']
  interval_cases i <;> rfl

theorem counterAt_zero (c : Block) : counterAt c 0 = c := by
  apply BitVec.eq_of_getLsbD_eq
  intro i hi
  simp only [counterAt, counterHead, BitVec.getLsbD_append]
  by_cases h : i < 32
  · simp [h]
  · have h1 : i - 32 < 96 := by omega
    have h2 : 32 + (i - 32) = i := by omega
    simp [h, h1, h2]

theorem counterHead_append (h : BitVec 96) (w : Word) : counterHead (h ++ w) = h := by
  simp only [counterHead, BitVec.extractLsb'_append_eq_of_le (Nat.le_refl 32)]
  simp

theorem counterCount_append (h : BitVec 96) (w : Word) : counterCount (h ++ w) = w := by
  rw [counterCount_eq, BitVec.extractLsb'_append_eq_of_add_le (by omega)]
  simp

theorem counterAt_inc32 (c : Block) (n : Nat) : counterAt (inc32 c) n = counterAt c (n + 1) := by
  unfold counterAt inc32
  rw [counterHead_append, ← counterCount_eq, counterCount_append, counterCount_eq, BitVec.add_assoc]
  congr 2
  rw [BitVec.add_comm, BitVec.ofNat_add]

/-- The counter of a pass that starts at nonce || n0. -/
theorem counterAt_append (h : BitVec 96) (w : Word) (n : Nat) : counterAt (h ++ w) n = h ++ (w + BitVec.ofNat 32 n) := by
  rw [counterAt, counterHead_append, ← counterCount_eq, counterCount_append]

@[simp] theorem xorChunk_length (data : List Byte) (ks : Block) (h : data.length ≤ 16) :
    (xorChunk data ks).length = data.length := by
  simp [xorChunk, h]

theorem ctrXor_nil (rk : Vector Word 32) (c : Block) : ctrXor rk c [] = [] := rfl

/-- The first chunk, then the pass over the rest from the next counter. -/
theorem ctrXor_eq (rk : Vector Word 32) (c : Block) {data : List Byte} (h : data ≠ []) :
    ctrXor rk c data = xorChunk (data.take 16) (blockE rk c) ++ ctrXor rk (inc32 c) (data.drop 16) := by
  rw [ctrXor, chunks_eq h, ctrXorChunks, ctrXor]

/-- The pass keeps the length (R108), and byte k is data byte k xor byte k mod 16 of the keystream block k / 16 further (R109). -/
theorem ctrXor_spec (rk : Vector Word 32) (c : Block) (data : List Byte) :
    (ctrXor rk c data).length = data.length ∧
    ∀ k, k < data.length →
      (ctrXor rk c data).getD k 0 = data.getD k 0 ^^^ blockByte (blockE rk (counterAt c (k / 16))) (k % 16) := by
  induction hn : data.length using Nat.strong_induction_on generalizing data c with
  | _ n ih =>
    by_cases h : data = []
    · subst h; subst hn; exact ⟨by simp [ctrXor_nil], fun k hk => by simp at hk⟩
    have hpos : 0 < data.length := List.length_pos_iff.mpr h
    obtain ⟨hl, hb⟩ := ih (data.drop 16).length (by simp; omega) (inc32 c) (data.drop 16) rfl
    have ht : (xorChunk (data.take 16) (blockE rk c)).length = min 16 data.length := by
      rw [xorChunk_length _ _ (by simp), List.length_take]
    rw [ctrXor_eq rk c h]
    refine ⟨by simp only [List.length_append, ht, hl, List.length_drop]; omega, fun k hk => ?_⟩
    by_cases hk16 : k < 16
    · have h0 : k / 16 = 0 := by omega
      have h1 : k % 16 = k := by omega
      rw [List.getD_append _ _ _ _ (by rw [ht]; omega), h0, h1, counterAt_zero]
      have hk' : k < data.length := by omega
      simp [xorChunk, List.getD_eq_getElem?_getD, hk16, hk', blockBytes]
    · have hk' : k - 16 < (data.drop 16).length := by simp; omega
      have ht' : (xorChunk (data.take 16) (blockE rk c)).length = 16 := by omega
      have hd : (data.drop 16).getD (k - 16) 0 = data.getD k 0 := by
        simp only [List.getD_eq_getElem?_getD, List.getElem?_drop]; congr 2; omega
      have h0 : (k - 16) / 16 + 1 = k / 16 := by omega
      have h1 : (k - 16) % 16 = k % 16 := by omega
      rw [List.getD_append_right _ _ _ _ (by omega), ht', hb _ hk', hd, counterAt_inc32, h0, h1]

end Sys2Proof.Machine
end

