-- ==== Sys2Proof/Laws/Memory.lean ====
section
/-!
SUPPORT. The laws of one buffer space: a read after a write, and that every operation keeps the canonical form and BUFCAP.
-/

namespace Sys2Proof.Machine

/-- A canonical memory reads as unlisted below its first offset. -/
theorem read_lt_of_wfFrom {lo : Nat} {m : Memory} (h : m.wfFrom lo = true) {k : Nat} (hk : k < lo) :
    m.read k = Config.unlistedByte := by
  induction m generalizing lo with
  | nil => rfl
  | cons c rest ih =>
    obtain ⟨a, v⟩ := c
    simp only [Memory.wfFrom, Bool.and_eq_true, decide_eq_true_eq] at h
    obtain ⟨⟨h1, _⟩, h3⟩ := h
    have hne : ¬ a = k := by omega
    simp only [Memory.read, if_neg hne]
    exact ih h3 (by omega)

theorem wfFrom_mono {lo lo' : Nat} {m : Memory} (h : m.wfFrom lo = true) (hl : lo' ≤ lo) : m.wfFrom lo' = true := by
  cases m with
  | nil => rfl
  | cons c rest =>
    obtain ⟨a, v⟩ := c
    simp only [Memory.wfFrom, Bool.and_eq_true, decide_eq_true_eq] at h ⊢
    exact ⟨⟨by omega, h.1.2⟩, h.2⟩

theorem write_wfFrom {lo : Nat} {m : Memory} (h : m.wfFrom lo = true) {k : Nat} (hk : lo ≤ k) (v : Byte) :
    (m.write k v).wfFrom lo = true := by
  induction m generalizing lo with
  | nil =>
    unfold Memory.write
    split <;> simp_all [Memory.wfFrom]
  | cons c rest ih =>
    obtain ⟨a, u⟩ := c
    simp only [Memory.wfFrom, Bool.and_eq_true, decide_eq_true_eq] at h
    obtain ⟨⟨h1, h2⟩, h3⟩ := h
    unfold Memory.write
    split
    · split
      · simp [Memory.wfFrom, h1, h2, h3]
      · rename_i hlt hv
        simp only [Memory.wfFrom, Bool.and_eq_true, decide_eq_true_eq]
        exact ⟨⟨hk, hv⟩, ⟨by omega, h2⟩, h3⟩
    · split
      · split
        · exact wfFrom_mono h3 (by omega)
        · rename_i _ heq hv
          simp only [Memory.wfFrom, Bool.and_eq_true, decide_eq_true_eq]
          exact ⟨⟨hk, hv⟩, by rw [heq]; exact h3⟩
      · simp only [Memory.wfFrom, Bool.and_eq_true, decide_eq_true_eq]
        exact ⟨⟨h1, h2⟩, ih h3 (by omega)⟩

/-- A write keeps the canonical form. -/
theorem write_wf {m : Memory} (h : m.wf = true) (k : Nat) (v : Byte) : (m.write k v).wf = true :=
  write_wfFrom h (Nat.zero_le k) v

theorem write_below {cap : Nat} {m : Memory} (h : m.below cap = true) {k : Nat} (hk : k < cap) (v : Byte) :
    (m.write k v).below cap = true := by
  induction m with
  | nil =>
    unfold Memory.write
    split <;> simp [Memory.below, hk]
  | cons c rest ih =>
    obtain ⟨a, u⟩ := c
    simp only [Memory.below, List.all_cons, Bool.and_eq_true, decide_eq_true_eq] at h
    unfold Memory.write
    split
    · split <;> simp [Memory.below, List.all_cons, hk, h.1, h.2]
    · split
      · split <;> simp [Memory.below, List.all_cons, hk, h.2]
      · have := ih h.2
        simp only [Memory.below, List.all_cons, Bool.and_eq_true, decide_eq_true_eq]
        exact ⟨h.1, this⟩

/-- A read after a write to the same offset gives the byte written. -/
theorem read_write_sameFrom {lo : Nat} {m : Memory} (h : m.wfFrom lo = true) (k : Nat) (v : Byte) :
    (m.write k v).read k = v := by
  induction m generalizing lo with
  | nil =>
    unfold Memory.write
    split <;> simp_all [Memory.read]
  | cons c rest ih =>
    obtain ⟨a, u⟩ := c
    simp only [Memory.wfFrom, Bool.and_eq_true, decide_eq_true_eq] at h
    obtain ⟨⟨h1, h2⟩, h3⟩ := h
    unfold Memory.write
    split
    · rename_i hlt
      split
      · rename_i hv
        have hne : ¬ a = k := by omega
        simp only [Memory.read, if_neg hne]
        rw [read_lt_of_wfFrom h3 (by omega), hv]
      · simp [Memory.read]
    · split
      · split
        · rename_i _ heq hv
          rw [read_lt_of_wfFrom h3 (by omega), hv]
        · simp [Memory.read]
      · rename_i _ hne
        have hne' : ¬ a = k := fun e => hne e.symm
        simp only [Memory.read, if_neg hne']
        exact ih h3

/-- A read after a write to the same offset gives the byte written (R48). -/
theorem read_write_same {m : Memory} (h : m.wf = true) (k : Nat) (v : Byte) : (m.write k v).read k = v :=
  read_write_sameFrom h k v

/-- A write leaves every other offset alone (R48). -/
theorem read_write_other (m : Memory) {k k' : Nat} (hne : k' ≠ k) (v : Byte) : (m.write k v).read k' = m.read k' := by
  induction m with
  | nil =>
    unfold Memory.write
    split
    · rfl
    · simp [Memory.read, hne.symm]
  | cons c rest ih =>
    obtain ⟨a, u⟩ := c
    unfold Memory.write
    split
    · split
      · rfl
      · simp [Memory.read, hne.symm]
    · split
      · rename_i _ heq
        subst heq
        split <;> simp [Memory.read, hne.symm]
      · simp only [Memory.read]
        split
        · rfl
        · exact ih

/-- Writing a byte string keeps the canonical form. -/
theorem writeBytes_wf {m : Memory} (h : m.wf = true) (off : Nat) (bs : List Byte) : (m.writeBytes off bs).wf = true := by
  induction bs generalizing m off with
  | nil => exact h
  | cons v rest ih => exact ih (write_wf h off v) (off + 1)

/-- Writing a byte string that ends at or below `cap` keeps every offset below `cap`. -/
theorem writeBytes_below {cap : Nat} {m : Memory} (h : m.below cap = true) {off : Nat} {bs : List Byte}
    (hb : off + bs.length ≤ cap) : (m.writeBytes off bs).below cap = true := by
  induction bs generalizing m off with
  | nil => exact h
  | cons v rest ih =>
    simp only [List.length_cons] at hb
    exact ih (write_below h (by omega) v) (by omega)

/-- What a byte string write does to every offset (R48). -/
theorem read_writeBytes {m : Memory} (h : m.wf = true) (off : Nat) (bs : List Byte) (k : Nat) :
    (m.writeBytes off bs).read k = if off ≤ k ∧ k < off + bs.length then bs.getD (k - off) 0 else m.read k := by
  induction bs generalizing m off with
  | nil => simp [Memory.writeBytes]
  | cons v rest ih =>
    rw [Memory.writeBytes, ih (write_wf h off v)]
    by_cases hk : k = off
    · subst hk
      simp [read_write_same h]
    · by_cases h1 : off + 1 ≤ k ∧ k < off + 1 + rest.length
      · have h2 : off ≤ k ∧ k < off + (v :: rest).length := by simp only [List.length_cons]; omega
        rw [if_pos h1, if_pos h2]
        obtain ⟨j, rfl⟩ : ∃ j, k = off + 1 + j := ⟨k - (off + 1), by omega⟩
        rw [show off + 1 + j - (off + 1) = j from by omega, show off + 1 + j - off = j + 1 from by omega]
        rfl
      · have h2 : ¬ (off ≤ k ∧ k < off + (v :: rest).length) := by simp only [List.length_cons]; omega
        rw [if_neg h1, if_neg h2, read_write_other m hk]

/-- A byte string write leaves the offsets outside it alone, whatever the memory (R48). -/
theorem read_writeBytes_outside (m : Memory) (off : Nat) (bs : List Byte) {k : Nat} (hk : k < off ∨ off + bs.length ≤ k) :
    (m.writeBytes off bs).read k = m.read k := by
  induction bs generalizing m off with
  | nil => rfl
  | cons v rest ih =>
    simp only [List.length_cons] at hk
    rw [Memory.writeBytes, ih _ _ (by omega), read_write_other m (by omega)]

/-- A byte string write at or below BUFCAP keeps a buffer legal. -/
theorem writeBytes_legal {cap : Nat} {m : Memory} (h : m.Legal cap) {off : Nat} {bs : List Byte}
    (hb : off + bs.length ≤ cap) : (m.writeBytes off bs).Legal cap :=
  ⟨writeBytes_wf h.1 off bs, writeBytes_below h.2 hb⟩

/-- A buffer built from listed bytes is legal. -/
theorem ofBytes_legal (cap : Nat) (bs : List Byte) : (Memory.ofBytes cap bs).Legal cap :=
  writeBytes_legal ⟨rfl, rfl⟩ (by simp)

/-- A buffer built from listed bytes holds them. -/
theorem read_ofBytes (cap : Nat) (bs : List Byte) (k : Nat) :
    (Memory.ofBytes cap bs).read k = if k < cap then bs.getD k 0 else Config.unlistedByte := by
  rw [Memory.ofBytes, read_writeBytes rfl]
  by_cases h1 : k < cap
  · by_cases h2 : k < bs.length
    · simp [h1, h2]
    · simp [h1, h2, Memory.read, Config.unlistedByte]
  · simp [h1, Memory.read]

@[simp] theorem readBytes_length (m : Memory) (off n : Nat) : (m.readBytes off n).length = n := by
  simp [Memory.readBytes]

/-- Byte k of a byte string read (R47). -/
theorem getElem_readBytes (m : Memory) (off n k : Nat) (h : k < (m.readBytes off n).length) :
    (m.readBytes off n)[k] = m.read (off + k) := by
  simp [Memory.readBytes]

end Sys2Proof.Machine
end

