-- ==== Sys2Proof/Laws/State.lean ====
section
/-!
SUPPORT. What each named update of the state does to each field: one lemma per field per update.
-/

namespace Sys2Proof.Machine


/-! ### setErr -/

@[simp] theorem setErr_err (s : State) (c : BitVec 4) : (s.setErr c).err = c := rfl
@[simp] theorem setErr_rkv (s : State) (c : BitVec 4) : (s.setErr c).rkv = s.rkv := rfl
@[simp] theorem setErr_keylen (s : State) (c : BitVec 4) : (s.setErr c).keylen = s.keylen := rfl
@[simp] theorem setErr_key (s : State) (c : BitVec 4) : (s.setErr c).key = s.key := rfl
@[simp] theorem setErr_noncelen (s : State) (c : BitVec 4) : (s.setErr c).noncelen = s.noncelen := rfl
@[simp] theorem setErr_nonce (s : State) (c : BitVec 4) : (s.setErr c).nonce = s.nonce := rfl
@[simp] theorem setErr_aadlen (s : State) (c : BitVec 4) : (s.setErr c).aadlen = s.aadlen := rfl
@[simp] theorem setErr_dlen (s : State) (c : BitVec 4) : (s.setErr c).dlen = s.dlen := rfl
@[simp] theorem setErr_outcap (s : State) (c : BitVec 4) : (s.setErr c).outcap = s.outcap := rfl
@[simp] theorem setErr_a (s : State) (c : BitVec 4) : (s.setErr c).a = s.a := rfl
@[simp] theorem setErr_b (s : State) (c : BitVec 4) : (s.setErr c).b = s.b := rfl
@[simp] theorem setErr_r (s : State) (c : BitVec 4) : (s.setErr c).r = s.r := rfl
@[simp] theorem setErr_tag (s : State) (c : BitVec 4) : (s.setErr c).tag = s.tag := rfl
@[simp] theorem setErr_rk (s : State) (c : BitVec 4) : (s.setErr c).rk = s.rk := rfl
@[simp] theorem setErr_aadbuf (s : State) (c : BitVec 4) : (s.setErr c).aadbuf = s.aadbuf := rfl
@[simp] theorem setErr_dinbuf (s : State) (c : BitVec 4) : (s.setErr c).dinbuf = s.dinbuf := rfl
@[simp] theorem setErr_doutbuf (s : State) (c : BitVec 4) : (s.setErr c).doutbuf = s.doutbuf := rfl
@[simp] theorem setErr_bufcap (s : State) (c : BitVec 4) : (s.setErr c).bufcap = s.bufcap := rfl
@[simp] theorem setErr_pending (s : State) (c : BitVec 4) : (s.setErr c).pending = s.pending := rfl
@[simp] theorem setErr_seen (s : State) (c : BitVec 4) : (s.setErr c).seen = s.seen := rfl

/-! ### setR -/

@[simp] theorem setR_err (s : State) (v : Block) : (s.setR v).err = s.err := rfl
@[simp] theorem setR_rkv (s : State) (v : Block) : (s.setR v).rkv = s.rkv := rfl
@[simp] theorem setR_keylen (s : State) (v : Block) : (s.setR v).keylen = s.keylen := rfl
@[simp] theorem setR_key (s : State) (v : Block) : (s.setR v).key = s.key := rfl
@[simp] theorem setR_noncelen (s : State) (v : Block) : (s.setR v).noncelen = s.noncelen := rfl
@[simp] theorem setR_nonce (s : State) (v : Block) : (s.setR v).nonce = s.nonce := rfl
@[simp] theorem setR_aadlen (s : State) (v : Block) : (s.setR v).aadlen = s.aadlen := rfl
@[simp] theorem setR_dlen (s : State) (v : Block) : (s.setR v).dlen = s.dlen := rfl
@[simp] theorem setR_outcap (s : State) (v : Block) : (s.setR v).outcap = s.outcap := rfl
@[simp] theorem setR_a (s : State) (v : Block) : (s.setR v).a = s.a := rfl
@[simp] theorem setR_b (s : State) (v : Block) : (s.setR v).b = s.b := rfl
@[simp] theorem setR_r (s : State) (v : Block) : (s.setR v).r = v := rfl
@[simp] theorem setR_tag (s : State) (v : Block) : (s.setR v).tag = s.tag := rfl
@[simp] theorem setR_rk (s : State) (v : Block) : (s.setR v).rk = s.rk := rfl
@[simp] theorem setR_aadbuf (s : State) (v : Block) : (s.setR v).aadbuf = s.aadbuf := rfl
@[simp] theorem setR_dinbuf (s : State) (v : Block) : (s.setR v).dinbuf = s.dinbuf := rfl
@[simp] theorem setR_doutbuf (s : State) (v : Block) : (s.setR v).doutbuf = s.doutbuf := rfl
@[simp] theorem setR_bufcap (s : State) (v : Block) : (s.setR v).bufcap = s.bufcap := rfl
@[simp] theorem setR_pending (s : State) (v : Block) : (s.setR v).pending = s.pending := rfl
@[simp] theorem setR_seen (s : State) (v : Block) : (s.setR v).seen = s.seen := rfl

/-! ### setTag -/

@[simp] theorem setTag_err (s : State) (v : Block) : (s.setTag v).err = s.err := rfl
@[simp] theorem setTag_rkv (s : State) (v : Block) : (s.setTag v).rkv = s.rkv := rfl
@[simp] theorem setTag_keylen (s : State) (v : Block) : (s.setTag v).keylen = s.keylen := rfl
@[simp] theorem setTag_key (s : State) (v : Block) : (s.setTag v).key = s.key := rfl
@[simp] theorem setTag_noncelen (s : State) (v : Block) : (s.setTag v).noncelen = s.noncelen := rfl
@[simp] theorem setTag_nonce (s : State) (v : Block) : (s.setTag v).nonce = s.nonce := rfl
@[simp] theorem setTag_aadlen (s : State) (v : Block) : (s.setTag v).aadlen = s.aadlen := rfl
@[simp] theorem setTag_dlen (s : State) (v : Block) : (s.setTag v).dlen = s.dlen := rfl
@[simp] theorem setTag_outcap (s : State) (v : Block) : (s.setTag v).outcap = s.outcap := rfl
@[simp] theorem setTag_a (s : State) (v : Block) : (s.setTag v).a = s.a := rfl
@[simp] theorem setTag_b (s : State) (v : Block) : (s.setTag v).b = s.b := rfl
@[simp] theorem setTag_r (s : State) (v : Block) : (s.setTag v).r = s.r := rfl
@[simp] theorem setTag_tag (s : State) (v : Block) : (s.setTag v).tag = v := rfl
@[simp] theorem setTag_rk (s : State) (v : Block) : (s.setTag v).rk = s.rk := rfl
@[simp] theorem setTag_aadbuf (s : State) (v : Block) : (s.setTag v).aadbuf = s.aadbuf := rfl
@[simp] theorem setTag_dinbuf (s : State) (v : Block) : (s.setTag v).dinbuf = s.dinbuf := rfl
@[simp] theorem setTag_doutbuf (s : State) (v : Block) : (s.setTag v).doutbuf = s.doutbuf := rfl
@[simp] theorem setTag_bufcap (s : State) (v : Block) : (s.setTag v).bufcap = s.bufcap := rfl
@[simp] theorem setTag_pending (s : State) (v : Block) : (s.setTag v).pending = s.pending := rfl
@[simp] theorem setTag_seen (s : State) (v : Block) : (s.setTag v).seen = s.seen := rfl

/-! ### loadSchedule -/

@[simp] theorem loadSchedule_err (s : State) (k : Vector Word 32) : (s.loadSchedule k).err = s.err := rfl
@[simp] theorem loadSchedule_rkv (s : State) (k : Vector Word 32) : (s.loadSchedule k).rkv = true := rfl
@[simp] theorem loadSchedule_keylen (s : State) (k : Vector Word 32) : (s.loadSchedule k).keylen = s.keylen := rfl
@[simp] theorem loadSchedule_key (s : State) (k : Vector Word 32) : (s.loadSchedule k).key = s.key := rfl
@[simp] theorem loadSchedule_noncelen (s : State) (k : Vector Word 32) : (s.loadSchedule k).noncelen = s.noncelen := rfl
@[simp] theorem loadSchedule_nonce (s : State) (k : Vector Word 32) : (s.loadSchedule k).nonce = s.nonce := rfl
@[simp] theorem loadSchedule_aadlen (s : State) (k : Vector Word 32) : (s.loadSchedule k).aadlen = s.aadlen := rfl
@[simp] theorem loadSchedule_dlen (s : State) (k : Vector Word 32) : (s.loadSchedule k).dlen = s.dlen := rfl
@[simp] theorem loadSchedule_outcap (s : State) (k : Vector Word 32) : (s.loadSchedule k).outcap = s.outcap := rfl
@[simp] theorem loadSchedule_a (s : State) (k : Vector Word 32) : (s.loadSchedule k).a = s.a := rfl
@[simp] theorem loadSchedule_b (s : State) (k : Vector Word 32) : (s.loadSchedule k).b = s.b := rfl
@[simp] theorem loadSchedule_r (s : State) (k : Vector Word 32) : (s.loadSchedule k).r = s.r := rfl
@[simp] theorem loadSchedule_tag (s : State) (k : Vector Word 32) : (s.loadSchedule k).tag = s.tag := rfl
@[simp] theorem loadSchedule_rk (s : State) (k : Vector Word 32) : (s.loadSchedule k).rk = k := rfl
@[simp] theorem loadSchedule_aadbuf (s : State) (k : Vector Word 32) : (s.loadSchedule k).aadbuf = s.aadbuf := rfl
@[simp] theorem loadSchedule_dinbuf (s : State) (k : Vector Word 32) : (s.loadSchedule k).dinbuf = s.dinbuf := rfl
@[simp] theorem loadSchedule_doutbuf (s : State) (k : Vector Word 32) : (s.loadSchedule k).doutbuf = s.doutbuf := rfl
@[simp] theorem loadSchedule_bufcap (s : State) (k : Vector Word 32) : (s.loadSchedule k).bufcap = s.bufcap := rfl
@[simp] theorem loadSchedule_pending (s : State) (k : Vector Word 32) : (s.loadSchedule k).pending = s.pending := rfl
@[simp] theorem loadSchedule_seen (s : State) (k : Vector Word 32) : (s.loadSchedule k).seen = s.seen := rfl

/-! ### setPending -/

@[simp] theorem setPending_err (s : State) (evs : List HostEvent) : (s.setPending evs).err = s.err := rfl
@[simp] theorem setPending_rkv (s : State) (evs : List HostEvent) : (s.setPending evs).rkv = s.rkv := rfl
@[simp] theorem setPending_keylen (s : State) (evs : List HostEvent) : (s.setPending evs).keylen = s.keylen := rfl
@[simp] theorem setPending_key (s : State) (evs : List HostEvent) : (s.setPending evs).key = s.key := rfl
@[simp] theorem setPending_noncelen (s : State) (evs : List HostEvent) : (s.setPending evs).noncelen = s.noncelen := rfl
@[simp] theorem setPending_nonce (s : State) (evs : List HostEvent) : (s.setPending evs).nonce = s.nonce := rfl
@[simp] theorem setPending_aadlen (s : State) (evs : List HostEvent) : (s.setPending evs).aadlen = s.aadlen := rfl
@[simp] theorem setPending_dlen (s : State) (evs : List HostEvent) : (s.setPending evs).dlen = s.dlen := rfl
@[simp] theorem setPending_outcap (s : State) (evs : List HostEvent) : (s.setPending evs).outcap = s.outcap := rfl
@[simp] theorem setPending_a (s : State) (evs : List HostEvent) : (s.setPending evs).a = s.a := rfl
@[simp] theorem setPending_b (s : State) (evs : List HostEvent) : (s.setPending evs).b = s.b := rfl
@[simp] theorem setPending_r (s : State) (evs : List HostEvent) : (s.setPending evs).r = s.r := rfl
@[simp] theorem setPending_tag (s : State) (evs : List HostEvent) : (s.setPending evs).tag = s.tag := rfl
@[simp] theorem setPending_rk (s : State) (evs : List HostEvent) : (s.setPending evs).rk = s.rk := rfl
@[simp] theorem setPending_aadbuf (s : State) (evs : List HostEvent) : (s.setPending evs).aadbuf = s.aadbuf := rfl
@[simp] theorem setPending_dinbuf (s : State) (evs : List HostEvent) : (s.setPending evs).dinbuf = s.dinbuf := rfl
@[simp] theorem setPending_doutbuf (s : State) (evs : List HostEvent) : (s.setPending evs).doutbuf = s.doutbuf := rfl
@[simp] theorem setPending_bufcap (s : State) (evs : List HostEvent) : (s.setPending evs).bufcap = s.bufcap := rfl
@[simp] theorem setPending_pending (s : State) (evs : List HostEvent) : (s.setPending evs).pending = evs := rfl
@[simp] theorem setPending_seen (s : State) (evs : List HostEvent) : (s.setPending evs).seen = s.seen := rfl

/-! ### observe -/

@[simp] theorem observe_err (s : State) (x : Reading) : (s.observe x).err = s.err := rfl
@[simp] theorem observe_rkv (s : State) (x : Reading) : (s.observe x).rkv = s.rkv := rfl
@[simp] theorem observe_keylen (s : State) (x : Reading) : (s.observe x).keylen = s.keylen := rfl
@[simp] theorem observe_key (s : State) (x : Reading) : (s.observe x).key = s.key := rfl
@[simp] theorem observe_noncelen (s : State) (x : Reading) : (s.observe x).noncelen = s.noncelen := rfl
@[simp] theorem observe_nonce (s : State) (x : Reading) : (s.observe x).nonce = s.nonce := rfl
@[simp] theorem observe_aadlen (s : State) (x : Reading) : (s.observe x).aadlen = s.aadlen := rfl
@[simp] theorem observe_dlen (s : State) (x : Reading) : (s.observe x).dlen = s.dlen := rfl
@[simp] theorem observe_outcap (s : State) (x : Reading) : (s.observe x).outcap = s.outcap := rfl
@[simp] theorem observe_a (s : State) (x : Reading) : (s.observe x).a = s.a := rfl
@[simp] theorem observe_b (s : State) (x : Reading) : (s.observe x).b = s.b := rfl
@[simp] theorem observe_r (s : State) (x : Reading) : (s.observe x).r = s.r := rfl
@[simp] theorem observe_tag (s : State) (x : Reading) : (s.observe x).tag = s.tag := rfl
@[simp] theorem observe_rk (s : State) (x : Reading) : (s.observe x).rk = s.rk := rfl
@[simp] theorem observe_aadbuf (s : State) (x : Reading) : (s.observe x).aadbuf = s.aadbuf := rfl
@[simp] theorem observe_dinbuf (s : State) (x : Reading) : (s.observe x).dinbuf = s.dinbuf := rfl
@[simp] theorem observe_doutbuf (s : State) (x : Reading) : (s.observe x).doutbuf = s.doutbuf := rfl
@[simp] theorem observe_bufcap (s : State) (x : Reading) : (s.observe x).bufcap = s.bufcap := rfl
@[simp] theorem observe_pending (s : State) (x : Reading) : (s.observe x).pending = s.pending := rfl
@[simp] theorem observe_seen (s : State) (x : Reading) : (s.observe x).seen = s.seen ++ [x] := rfl

/-! ### raise -/

@[simp] theorem raise_err (s : State) (e : Err) : (s.raise e).err = e.code := rfl
@[simp] theorem raise_rkv (s : State) (e : Err) : (s.raise e).rkv = s.rkv := rfl
@[simp] theorem raise_keylen (s : State) (e : Err) : (s.raise e).keylen = s.keylen := rfl
@[simp] theorem raise_key (s : State) (e : Err) : (s.raise e).key = s.key := rfl
@[simp] theorem raise_noncelen (s : State) (e : Err) : (s.raise e).noncelen = s.noncelen := rfl
@[simp] theorem raise_nonce (s : State) (e : Err) : (s.raise e).nonce = s.nonce := rfl
@[simp] theorem raise_aadlen (s : State) (e : Err) : (s.raise e).aadlen = s.aadlen := rfl
@[simp] theorem raise_dlen (s : State) (e : Err) : (s.raise e).dlen = s.dlen := rfl
@[simp] theorem raise_outcap (s : State) (e : Err) : (s.raise e).outcap = s.outcap := rfl
@[simp] theorem raise_a (s : State) (e : Err) : (s.raise e).a = s.a := rfl
@[simp] theorem raise_b (s : State) (e : Err) : (s.raise e).b = s.b := rfl
@[simp] theorem raise_r (s : State) (e : Err) : (s.raise e).r = s.r := rfl
@[simp] theorem raise_tag (s : State) (e : Err) : (s.raise e).tag = s.tag := rfl
@[simp] theorem raise_rk (s : State) (e : Err) : (s.raise e).rk = s.rk := rfl
@[simp] theorem raise_aadbuf (s : State) (e : Err) : (s.raise e).aadbuf = s.aadbuf := rfl
@[simp] theorem raise_dinbuf (s : State) (e : Err) : (s.raise e).dinbuf = s.dinbuf := rfl
@[simp] theorem raise_doutbuf (s : State) (e : Err) : (s.raise e).doutbuf = s.doutbuf := rfl
@[simp] theorem raise_bufcap (s : State) (e : Err) : (s.raise e).bufcap = s.bufcap := rfl
@[simp] theorem raise_pending (s : State) (e : Err) : (s.raise e).pending = s.pending := rfl
@[simp] theorem raise_seen (s : State) (e : Err) : (s.raise e).seen = s.seen := rfl

/-! ### succeed -/

@[simp] theorem succeed_err (s : State) : s.succeed.err = okCode := rfl
@[simp] theorem succeed_rkv (s : State) : s.succeed.rkv = s.rkv := rfl
@[simp] theorem succeed_keylen (s : State) : s.succeed.keylen = s.keylen := rfl
@[simp] theorem succeed_key (s : State) : s.succeed.key = s.key := rfl
@[simp] theorem succeed_noncelen (s : State) : s.succeed.noncelen = s.noncelen := rfl
@[simp] theorem succeed_nonce (s : State) : s.succeed.nonce = s.nonce := rfl
@[simp] theorem succeed_aadlen (s : State) : s.succeed.aadlen = s.aadlen := rfl
@[simp] theorem succeed_dlen (s : State) : s.succeed.dlen = s.dlen := rfl
@[simp] theorem succeed_outcap (s : State) : s.succeed.outcap = s.outcap := rfl
@[simp] theorem succeed_a (s : State) : s.succeed.a = s.a := rfl
@[simp] theorem succeed_b (s : State) : s.succeed.b = s.b := rfl
@[simp] theorem succeed_r (s : State) : s.succeed.r = s.r := rfl
@[simp] theorem succeed_tag (s : State) : s.succeed.tag = s.tag := rfl
@[simp] theorem succeed_rk (s : State) : s.succeed.rk = s.rk := rfl
@[simp] theorem succeed_aadbuf (s : State) : s.succeed.aadbuf = s.aadbuf := rfl
@[simp] theorem succeed_dinbuf (s : State) : s.succeed.dinbuf = s.dinbuf := rfl
@[simp] theorem succeed_doutbuf (s : State) : s.succeed.doutbuf = s.doutbuf := rfl
@[simp] theorem succeed_bufcap (s : State) : s.succeed.bufcap = s.bufcap := rfl
@[simp] theorem succeed_pending (s : State) : s.succeed.pending = s.pending := rfl
@[simp] theorem succeed_seen (s : State) : s.succeed.seen = s.seen := rfl

/-! ### setBuf -/

@[simp] theorem setBuf_aadbuf_err (s : State) (m : Memory) : (s.setBuf .aadbuf m).err = s.err := rfl
@[simp] theorem setBuf_aadbuf_rkv (s : State) (m : Memory) : (s.setBuf .aadbuf m).rkv = s.rkv := rfl
@[simp] theorem setBuf_aadbuf_keylen (s : State) (m : Memory) : (s.setBuf .aadbuf m).keylen = s.keylen := rfl
@[simp] theorem setBuf_aadbuf_key (s : State) (m : Memory) : (s.setBuf .aadbuf m).key = s.key := rfl
@[simp] theorem setBuf_aadbuf_noncelen (s : State) (m : Memory) : (s.setBuf .aadbuf m).noncelen = s.noncelen := rfl
@[simp] theorem setBuf_aadbuf_nonce (s : State) (m : Memory) : (s.setBuf .aadbuf m).nonce = s.nonce := rfl
@[simp] theorem setBuf_aadbuf_aadlen (s : State) (m : Memory) : (s.setBuf .aadbuf m).aadlen = s.aadlen := rfl
@[simp] theorem setBuf_aadbuf_dlen (s : State) (m : Memory) : (s.setBuf .aadbuf m).dlen = s.dlen := rfl
@[simp] theorem setBuf_aadbuf_outcap (s : State) (m : Memory) : (s.setBuf .aadbuf m).outcap = s.outcap := rfl
@[simp] theorem setBuf_aadbuf_a (s : State) (m : Memory) : (s.setBuf .aadbuf m).a = s.a := rfl
@[simp] theorem setBuf_aadbuf_b (s : State) (m : Memory) : (s.setBuf .aadbuf m).b = s.b := rfl
@[simp] theorem setBuf_aadbuf_r (s : State) (m : Memory) : (s.setBuf .aadbuf m).r = s.r := rfl
@[simp] theorem setBuf_aadbuf_tag (s : State) (m : Memory) : (s.setBuf .aadbuf m).tag = s.tag := rfl
@[simp] theorem setBuf_aadbuf_rk (s : State) (m : Memory) : (s.setBuf .aadbuf m).rk = s.rk := rfl
@[simp] theorem setBuf_aadbuf_aadbuf (s : State) (m : Memory) : (s.setBuf .aadbuf m).aadbuf = m := rfl
@[simp] theorem setBuf_aadbuf_dinbuf (s : State) (m : Memory) : (s.setBuf .aadbuf m).dinbuf = s.dinbuf := rfl
@[simp] theorem setBuf_aadbuf_doutbuf (s : State) (m : Memory) : (s.setBuf .aadbuf m).doutbuf = s.doutbuf := rfl
@[simp] theorem setBuf_aadbuf_bufcap (s : State) (m : Memory) : (s.setBuf .aadbuf m).bufcap = s.bufcap := rfl
@[simp] theorem setBuf_aadbuf_pending (s : State) (m : Memory) : (s.setBuf .aadbuf m).pending = s.pending := rfl
@[simp] theorem setBuf_aadbuf_seen (s : State) (m : Memory) : (s.setBuf .aadbuf m).seen = s.seen := rfl
@[simp] theorem setBuf_dinbuf_err (s : State) (m : Memory) : (s.setBuf .dinbuf m).err = s.err := rfl
@[simp] theorem setBuf_dinbuf_rkv (s : State) (m : Memory) : (s.setBuf .dinbuf m).rkv = s.rkv := rfl
@[simp] theorem setBuf_dinbuf_keylen (s : State) (m : Memory) : (s.setBuf .dinbuf m).keylen = s.keylen := rfl
@[simp] theorem setBuf_dinbuf_key (s : State) (m : Memory) : (s.setBuf .dinbuf m).key = s.key := rfl
@[simp] theorem setBuf_dinbuf_noncelen (s : State) (m : Memory) : (s.setBuf .dinbuf m).noncelen = s.noncelen := rfl
@[simp] theorem setBuf_dinbuf_nonce (s : State) (m : Memory) : (s.setBuf .dinbuf m).nonce = s.nonce := rfl
@[simp] theorem setBuf_dinbuf_aadlen (s : State) (m : Memory) : (s.setBuf .dinbuf m).aadlen = s.aadlen := rfl
@[simp] theorem setBuf_dinbuf_dlen (s : State) (m : Memory) : (s.setBuf .dinbuf m).dlen = s.dlen := rfl
@[simp] theorem setBuf_dinbuf_outcap (s : State) (m : Memory) : (s.setBuf .dinbuf m).outcap = s.outcap := rfl
@[simp] theorem setBuf_dinbuf_a (s : State) (m : Memory) : (s.setBuf .dinbuf m).a = s.a := rfl
@[simp] theorem setBuf_dinbuf_b (s : State) (m : Memory) : (s.setBuf .dinbuf m).b = s.b := rfl
@[simp] theorem setBuf_dinbuf_r (s : State) (m : Memory) : (s.setBuf .dinbuf m).r = s.r := rfl
@[simp] theorem setBuf_dinbuf_tag (s : State) (m : Memory) : (s.setBuf .dinbuf m).tag = s.tag := rfl
@[simp] theorem setBuf_dinbuf_rk (s : State) (m : Memory) : (s.setBuf .dinbuf m).rk = s.rk := rfl
@[simp] theorem setBuf_dinbuf_aadbuf (s : State) (m : Memory) : (s.setBuf .dinbuf m).aadbuf = s.aadbuf := rfl
@[simp] theorem setBuf_dinbuf_dinbuf (s : State) (m : Memory) : (s.setBuf .dinbuf m).dinbuf = m := rfl
@[simp] theorem setBuf_dinbuf_doutbuf (s : State) (m : Memory) : (s.setBuf .dinbuf m).doutbuf = s.doutbuf := rfl
@[simp] theorem setBuf_dinbuf_bufcap (s : State) (m : Memory) : (s.setBuf .dinbuf m).bufcap = s.bufcap := rfl
@[simp] theorem setBuf_dinbuf_pending (s : State) (m : Memory) : (s.setBuf .dinbuf m).pending = s.pending := rfl
@[simp] theorem setBuf_dinbuf_seen (s : State) (m : Memory) : (s.setBuf .dinbuf m).seen = s.seen := rfl
@[simp] theorem setBuf_doutbuf_err (s : State) (m : Memory) : (s.setBuf .doutbuf m).err = s.err := rfl
@[simp] theorem setBuf_doutbuf_rkv (s : State) (m : Memory) : (s.setBuf .doutbuf m).rkv = s.rkv := rfl
@[simp] theorem setBuf_doutbuf_keylen (s : State) (m : Memory) : (s.setBuf .doutbuf m).keylen = s.keylen := rfl
@[simp] theorem setBuf_doutbuf_key (s : State) (m : Memory) : (s.setBuf .doutbuf m).key = s.key := rfl
@[simp] theorem setBuf_doutbuf_noncelen (s : State) (m : Memory) : (s.setBuf .doutbuf m).noncelen = s.noncelen := rfl
@[simp] theorem setBuf_doutbuf_nonce (s : State) (m : Memory) : (s.setBuf .doutbuf m).nonce = s.nonce := rfl
@[simp] theorem setBuf_doutbuf_aadlen (s : State) (m : Memory) : (s.setBuf .doutbuf m).aadlen = s.aadlen := rfl
@[simp] theorem setBuf_doutbuf_dlen (s : State) (m : Memory) : (s.setBuf .doutbuf m).dlen = s.dlen := rfl
@[simp] theorem setBuf_doutbuf_outcap (s : State) (m : Memory) : (s.setBuf .doutbuf m).outcap = s.outcap := rfl
@[simp] theorem setBuf_doutbuf_a (s : State) (m : Memory) : (s.setBuf .doutbuf m).a = s.a := rfl
@[simp] theorem setBuf_doutbuf_b (s : State) (m : Memory) : (s.setBuf .doutbuf m).b = s.b := rfl
@[simp] theorem setBuf_doutbuf_r (s : State) (m : Memory) : (s.setBuf .doutbuf m).r = s.r := rfl
@[simp] theorem setBuf_doutbuf_tag (s : State) (m : Memory) : (s.setBuf .doutbuf m).tag = s.tag := rfl
@[simp] theorem setBuf_doutbuf_rk (s : State) (m : Memory) : (s.setBuf .doutbuf m).rk = s.rk := rfl
@[simp] theorem setBuf_doutbuf_aadbuf (s : State) (m : Memory) : (s.setBuf .doutbuf m).aadbuf = s.aadbuf := rfl
@[simp] theorem setBuf_doutbuf_dinbuf (s : State) (m : Memory) : (s.setBuf .doutbuf m).dinbuf = s.dinbuf := rfl
@[simp] theorem setBuf_doutbuf_doutbuf (s : State) (m : Memory) : (s.setBuf .doutbuf m).doutbuf = m := rfl
@[simp] theorem setBuf_doutbuf_bufcap (s : State) (m : Memory) : (s.setBuf .doutbuf m).bufcap = s.bufcap := rfl
@[simp] theorem setBuf_doutbuf_pending (s : State) (m : Memory) : (s.setBuf .doutbuf m).pending = s.pending := rfl
@[simp] theorem setBuf_doutbuf_seen (s : State) (m : Memory) : (s.setBuf .doutbuf m).seen = s.seen := rfl

/-! ### resetEvent -/

@[simp] theorem resetEvent_err (s : State) (d : ResetData) : (s.resetEvent d).err = 0#4 := rfl
@[simp] theorem resetEvent_rkv (s : State) (d : ResetData) : (s.resetEvent d).rkv = false := rfl
@[simp] theorem resetEvent_keylen (s : State) (d : ResetData) : (s.resetEvent d).keylen = 0#32 := rfl
@[simp] theorem resetEvent_key (s : State) (d : ResetData) : (s.resetEvent d).key = d.key := rfl
@[simp] theorem resetEvent_noncelen (s : State) (d : ResetData) : (s.resetEvent d).noncelen = 0#32 := rfl
@[simp] theorem resetEvent_nonce (s : State) (d : ResetData) : (s.resetEvent d).nonce = d.nonce := rfl
@[simp] theorem resetEvent_aadlen (s : State) (d : ResetData) : (s.resetEvent d).aadlen = 0#64 := rfl
@[simp] theorem resetEvent_dlen (s : State) (d : ResetData) : (s.resetEvent d).dlen = 0#64 := rfl
@[simp] theorem resetEvent_outcap (s : State) (d : ResetData) : (s.resetEvent d).outcap = 0#64 := rfl
@[simp] theorem resetEvent_a (s : State) (d : ResetData) : (s.resetEvent d).a = d.a := rfl
@[simp] theorem resetEvent_b (s : State) (d : ResetData) : (s.resetEvent d).b = d.b := rfl
@[simp] theorem resetEvent_r (s : State) (d : ResetData) : (s.resetEvent d).r = d.r := rfl
@[simp] theorem resetEvent_tag (s : State) (d : ResetData) : (s.resetEvent d).tag = d.tag := rfl
@[simp] theorem resetEvent_rk (s : State) (d : ResetData) : (s.resetEvent d).rk = d.rk := rfl
@[simp] theorem resetEvent_aadbuf (s : State) (d : ResetData) : (s.resetEvent d).aadbuf = Memory.ofBytes s.bufcap.val d.aadbuf := rfl
@[simp] theorem resetEvent_dinbuf (s : State) (d : ResetData) : (s.resetEvent d).dinbuf = Memory.ofBytes s.bufcap.val d.dinbuf := rfl
@[simp] theorem resetEvent_doutbuf (s : State) (d : ResetData) : (s.resetEvent d).doutbuf = Memory.ofBytes s.bufcap.val d.doutbuf := rfl
@[simp] theorem resetEvent_bufcap (s : State) (d : ResetData) : (s.resetEvent d).bufcap = s.bufcap := rfl
@[simp] theorem resetEvent_pending (s : State) (d : ResetData) : (s.resetEvent d).pending = s.pending := rfl
@[simp] theorem resetEvent_seen (s : State) (d : ResetData) : (s.resetEvent d).seen = s.seen := rfl

/-! ### buf -/

@[simp] theorem buf_aadbuf (s : State) : s.buf .aadbuf = s.aadbuf := rfl
@[simp] theorem buf_dinbuf (s : State) : s.buf .dinbuf = s.dinbuf := rfl
@[simp] theorem buf_doutbuf (s : State) : s.buf .doutbuf = s.doutbuf := rfl

/-- A buffer just replaced holds the replacement. -/
@[simp] theorem buf_setBuf_same (s : State) (sp : Space) (m : Memory) : (s.setBuf sp m).buf sp = m := by
  cases sp <;> rfl

/-- The other two buffers are untouched (R39). -/
theorem buf_setBuf_other (s : State) {sp sp' : Space} (h : sp' ≠ sp) (m : Memory) :
    (s.setBuf sp m).buf sp' = s.buf sp' := by
  cases sp <;> cases sp' <;> first | rfl | exact absurd rfl h

/-- The named updates as record updates. -/
theorem raise_eq (s : State) (e : Err) : s.raise e = { s with err := e.code } := rfl
theorem succeed_eq (s : State) : s.succeed = { s with err := 0#4 } := rfl

/-- An error's code is 1 to 6, never 0 and never 7 to 15 (R131). -/
theorem code_range (e : Err) : 1 ≤ e.code.toNat ∧ e.code.toNat ≤ 6 := by
  cases e <;> decide

/-- Different errors have different codes (R131). -/
theorem code_injective : Function.Injective Err.code := by
  intro e f h
  cases e <;> cases f <;> first | rfl | exact absurd h (by decide)

end Sys2Proof.Machine
end

