-- ==== Sys2Proof/Laws/Ops.lean ====
section
/-!
SUPPORT. What each shared operation can do, said once: the error exit, the buffer accesses, the operands.
-/

namespace Sys2Proof.Machine

/-- The error exit taken (R135). -/
theorem raiseIf_pos {s : State} {cond : Bool} {e : Err} {k : Out} (h : cond = true) :
    s.raiseIf cond e k = .next (s.raise e) := by
  simp [State.raiseIf, h]

/-- The error exit not taken. -/
theorem raiseIf_neg {s : State} {cond : Bool} {e : Err} {k : Out} (h : cond = false) : s.raiseIf cond e k = k := by
  simp [State.raiseIf, h]

/-- If the error exit answers a next state, it was taken, or the rest answered. -/
theorem raiseIf_next {s t : State} {cond : Bool} {e : Err} {k : Out} (h : s.raiseIf cond e k = .next t) :
    (cond = true ∧ t = s.raise e) ∨ (cond = false ∧ k = .next t) := by
  cases cond with
  | true => exact .inl ⟨rfl, by simpa [State.raiseIf, eq_comm] using h⟩
  | false => exact .inr ⟨rfl, by simpa [State.raiseIf] using h⟩

/-- A buffer read answers exactly when the range exists, with the bytes in offset order (R47). -/
theorem memRead_eq_some {s : State} {sp : Space} {off n : Nat} {bs : List Byte} :
    s.memRead sp off n = some bs ↔ off + n ≤ s.bufcap.val ∧ bs = (s.buf sp).readBytes off n := by
  unfold State.memRead
  split <;> simp_all [eq_comm]

/-- A buffer write answers exactly when the range exists (R48). -/
theorem memWrite_eq_some {s t : State} {sp : Space} {off : Nat} {bs : List Byte} :
    s.memWrite sp off bs = some t ↔ off + bs.length ≤ s.bufcap.val ∧ t = s.setBuf sp ((s.buf sp).writeBytes off bs) := by
  unfold State.memWrite
  split <;> simp_all [eq_comm]

/-- The AAD operand where its range exists. -/
theorem readAad_eq {s : State} (h : s.aadlen.toNat ≤ s.bufcap.val) (k : List Byte → Out) : s.readAad k = k s.aadBytes := by
  unfold State.readAad
  rw [memRead_eq_some.mpr ⟨by omega, rfl⟩]
  rfl

/-- The data operand where its range exists. -/
theorem readData_eq {s : State} (h : s.dlen.toNat ≤ s.bufcap.val) (k : List Byte → Out) : s.readData k = k s.dataBytes := by
  unfold State.readData
  rw [memRead_eq_some.mpr ⟨by omega, rfl⟩]
  rfl

/-- The output where its range exists. -/
theorem writeData_eq {s : State} {v : List Byte} (h : v.length ≤ s.bufcap.val) (k : State → Out) :
    s.writeData v k = k (s.setBuf .doutbuf (s.doutbuf.writeBytes 0 v)) := by
  unfold State.writeData
  rw [memWrite_eq_some.mpr ⟨by omega, rfl⟩]
  rfl

/-- If the AAD operand leads to a next state, its range exists. -/
theorem readAad_next {s t : State} {k : List Byte → Out} (h : s.readAad k = .next t) :
    s.aadlen.toNat ≤ s.bufcap.val ∧ k s.aadBytes = .next t := by
  by_cases hc : s.aadlen.toNat ≤ s.bufcap.val
  · exact ⟨hc, readAad_eq hc k ▸ h⟩
  · simp [State.readAad, State.memRead, hc] at h

/-- If the data operand leads to a next state, its range exists. -/
theorem readData_next {s t : State} {k : List Byte → Out} (h : s.readData k = .next t) :
    s.dlen.toNat ≤ s.bufcap.val ∧ k s.dataBytes = .next t := by
  by_cases hc : s.dlen.toNat ≤ s.bufcap.val
  · exact ⟨hc, readData_eq hc k ▸ h⟩
  · simp [State.readData, State.memRead, hc] at h

/-- If the output leads to a next state, its range exists. -/
theorem writeData_next {s t : State} {v : List Byte} {k : State → Out} (h : s.writeData v k = .next t) :
    v.length ≤ s.bufcap.val ∧ k (s.setBuf .doutbuf (s.doutbuf.writeBytes 0 v)) = .next t := by
  by_cases hc : v.length ≤ s.bufcap.val
  · exact ⟨hc, writeData_eq hc k ▸ h⟩
  · simp [State.writeData, State.memWrite, hc] at h

@[simp] theorem aadBytes_length (s : State) : s.aadBytes.length = s.aadlen.toNat := by simp [State.aadBytes]
@[simp] theorem dataBytes_length (s : State) : s.dataBytes.length = s.dlen.toNat := by simp [State.dataBytes]

end Sys2Proof.Machine
end

