-- ==== Sys2Proof/Laws/Exec.lean ====
section
/-!
SUPPORT. What each command can do, said once: if it answers a next state, which one, and under which conditions.
-/

namespace Sys2Proof.Machine

/-- KEYEXP raises or loads a schedule. -/
theorem execKeyexp_next {s t : State} (h : execKeyexp s = .next t) :
    (s.keylen ≠ 16#32 ∧ t = s.raise .invalidKeyLength) ∨
    (s.keylen = 16#32 ∧ t = (s.loadSchedule (keyExpand s.key)).succeed) := by
  unfold execKeyexp at h
  obtain ⟨hc, rfl⟩ | ⟨hc, h⟩ := raiseIf_next h
  · exact .inl ⟨of_decide_eq_true hc, rfl⟩
  · refine .inr ⟨?_, by injection h with h; exact h.symm⟩
    exact Decidable.not_not.mp (of_decide_eq_false hc)

/-- BLKENC raises or writes R. -/
theorem execBlkenc_next {s t : State} (h : execBlkenc s = .next t) :
    (s.rkv = false ∧ t = s.raise .noKeySchedule) ∨ (s.rkv = true ∧ t = (s.setR (blockE s.rk s.a)).succeed) := by
  unfold execBlkenc at h
  obtain ⟨hc, rfl⟩ | ⟨hc, h⟩ := raiseIf_next h
  · exact .inl ⟨by simpa using hc, rfl⟩
  · exact .inr ⟨by simpa using hc, by injection h with h; exact h.symm⟩

/-- GFMUL writes R. -/
theorem execGfmul_next {s t : State} (h : execGfmul s = .next t) : t = (s.setR (gfMul s.a s.b)).succeed := by
  injection h with h; exact h.symm

/-- GHASH writes R where its ranges exist. -/
theorem execGhash_next {s t : State} (h : execGhash s = .next t) :
    s.LengthsLegal ∧ t = (s.setR (gHash s.b s.aadBytes s.dataBytes)).succeed := by
  unfold execGhash at h
  obtain ⟨h1, h⟩ := readAad_next h
  obtain ⟨h2, h⟩ := readData_next h
  exact ⟨⟨h1, h2⟩, by injection h with h; exact h.symm⟩

/-- CTRXOR raises, or writes DOUTBUF. -/
theorem execCtrxor_next {s t : State} (h : execCtrxor s = .next t) :
    (s.rkv = false ∧ t = s.raise .noKeySchedule) ∨
    (s.rkv = true ∧ s.outcap < s.dlen ∧ t = s.raise .bufferLengthMismatch) ∨
    (s.rkv = true ∧ ¬ s.outcap < s.dlen ∧ s.dlen.toNat ≤ s.bufcap.val ∧
      (ctrXor s.rk s.a s.dataBytes).length ≤ s.bufcap.val ∧
      t = (s.setBuf .doutbuf (s.doutbuf.writeBytes 0 (ctrXor s.rk s.a s.dataBytes))).succeed) := by
  unfold execCtrxor at h
  obtain ⟨hc, rfl⟩ | ⟨hc, h⟩ := raiseIf_next h
  · exact .inl ⟨by simpa using hc, rfl⟩
  obtain ⟨hd, rfl⟩ | ⟨hd, h⟩ := raiseIf_next h
  · exact .inr (.inl ⟨by simpa using hc, of_decide_eq_true hd, rfl⟩)
  obtain ⟨h1, h⟩ := readData_next h
  obtain ⟨h2, h⟩ := writeData_next h
  exact .inr (.inr ⟨by simpa using hc, of_decide_eq_false hd, h1, h2, by injection h with h; exact h.symm⟩)

/-- AEADENC raises, or writes DOUTBUF and TAG. -/
theorem execAeadenc_next {s t : State} (h : execAeadenc s = .next t) :
    (s.rkv = false ∧ t = s.raise .noKeySchedule) ∨
    (s.rkv = true ∧ s.noncelen ≠ 12#32 ∧ t = s.raise .invalidNonceLength) ∨
    (s.rkv = true ∧ s.noncelen = 12#32 ∧ s.outcap < s.dlen ∧ t = s.raise .bufferLengthMismatch) ∨
    (s.rkv = true ∧ s.noncelen = 12#32 ∧ ¬ s.outcap < s.dlen ∧ s.LengthsLegal ∧
      (sealMessage s.rk s.nonce s.aadBytes s.dataBytes).1.length ≤ s.bufcap.val ∧
      t = ((s.setBuf .doutbuf (s.doutbuf.writeBytes 0 (sealMessage s.rk s.nonce s.aadBytes s.dataBytes).1)).setTag
        (sealMessage s.rk s.nonce s.aadBytes s.dataBytes).2).succeed) := by
  unfold execAeadenc at h
  obtain ⟨hc, rfl⟩ | ⟨hc, h⟩ := raiseIf_next h
  · exact .inl ⟨by simpa using hc, rfl⟩
  obtain ⟨hn, rfl⟩ | ⟨hn, h⟩ := raiseIf_next h
  · exact .inr (.inl ⟨by simpa using hc, of_decide_eq_true hn, rfl⟩)
  have hn' : s.noncelen = 12#32 := Decidable.not_not.mp (of_decide_eq_false hn)
  obtain ⟨hd, rfl⟩ | ⟨hd, h⟩ := raiseIf_next h
  · exact .inr (.inr (.inl ⟨by simpa using hc, hn', of_decide_eq_true hd, rfl⟩))
  obtain ⟨h0, h⟩ := readAad_next h
  obtain ⟨h1, h⟩ := readData_next h
  obtain ⟨h2, h⟩ := writeData_next h
  exact .inr (.inr (.inr ⟨by simpa using hc, hn', of_decide_eq_false hd, ⟨h0, h1⟩, h2,
    by injection h with h; exact h.symm⟩))

/-- AEADDEC raises, or writes DOUTBUF after the tag has verified. -/
theorem execAeaddec_next {s t : State} (h : execAeaddec s = .next t) :
    (s.rkv = false ∧ t = s.raise .noKeySchedule) ∨
    (s.rkv = true ∧ s.noncelen ≠ 12#32 ∧ t = s.raise .invalidNonceLength) ∨
    (s.rkv = true ∧ s.noncelen = 12#32 ∧ s.outcap < s.dlen ∧ t = s.raise .bufferLengthMismatch) ∨
    (s.rkv = true ∧ s.noncelen = 12#32 ∧ ¬ s.outcap < s.dlen ∧ s.LengthsLegal ∧
      openMessage s.rk s.nonce s.aadBytes s.dataBytes s.tag = none ∧ t = s.raise .authenticationFailure) ∨
    (s.rkv = true ∧ s.noncelen = 12#32 ∧ ¬ s.outcap < s.dlen ∧ s.LengthsLegal ∧
      ∃ pt, openMessage s.rk s.nonce s.aadBytes s.dataBytes s.tag = some pt ∧ pt.length ≤ s.bufcap.val ∧
        t = (s.setBuf .doutbuf (s.doutbuf.writeBytes 0 pt)).succeed) := by
  unfold execAeaddec at h
  obtain ⟨hc, rfl⟩ | ⟨hc, h⟩ := raiseIf_next h
  · exact .inl ⟨by simpa using hc, rfl⟩
  obtain ⟨hn, rfl⟩ | ⟨hn, h⟩ := raiseIf_next h
  · exact .inr (.inl ⟨by simpa using hc, of_decide_eq_true hn, rfl⟩)
  have hn' : s.noncelen = 12#32 := Decidable.not_not.mp (of_decide_eq_false hn)
  obtain ⟨hd, rfl⟩ | ⟨hd, h⟩ := raiseIf_next h
  · exact .inr (.inr (.inl ⟨by simpa using hc, hn', of_decide_eq_true hd, rfl⟩))
  obtain ⟨h0, h⟩ := readAad_next h
  obtain ⟨h1, h⟩ := readData_next h
  have hd' := of_decide_eq_false hd
  cases ho : openMessage s.rk s.nonce s.aadBytes s.dataBytes s.tag with
  | none =>
    rw [ho] at h
    exact .inr (.inr (.inr (.inl ⟨by simpa using hc, hn', hd', ⟨h0, h1⟩, rfl, by injection h with h; exact h.symm⟩)))
  | some pt =>
    rw [ho] at h
    obtain ⟨h2, h⟩ := writeData_next h
    exact .inr (.inr (.inr (.inr ⟨by simpa using hc, hn', hd', ⟨h0, h1⟩, pt, rfl, h2,
      by injection h with h; exact h.symm⟩)))

end Sys2Proof.Machine
end

