-- ==== Sys2Proof/Laws/PerInstr.lean ====
section
/-!
SUPPORT. Facts about every command as syntax: one lemma per constructor.
-/

/-- The word of a well-formed command has a zero field of zeros, and decodes to the command (R181, R183). -/
def Sys2Proof.Laws.DecodeEncode.Statement (i : Sys2Proof.Instr) : Prop :=
  i.wf = true → Sys2Proof.zeroField (Sys2Proof.encode i) = 0#24 ∧ Sys2Proof.decode (Sys2Proof.encode i) = .ok i

theorem Sys2Proof.Laws.DecodeEncode.keyexp : Sys2Proof.Laws.DecodeEncode.Statement .keyexp := fun _ => ⟨by decide, by decide⟩
theorem Sys2Proof.Laws.DecodeEncode.blkenc : Sys2Proof.Laws.DecodeEncode.Statement .blkenc := fun _ => ⟨by decide, by decide⟩
theorem Sys2Proof.Laws.DecodeEncode.gfmul : Sys2Proof.Laws.DecodeEncode.Statement .gfmul := fun _ => ⟨by decide, by decide⟩
theorem Sys2Proof.Laws.DecodeEncode.ghash : Sys2Proof.Laws.DecodeEncode.Statement .ghash := fun _ => ⟨by decide, by decide⟩
theorem Sys2Proof.Laws.DecodeEncode.ctrxor : Sys2Proof.Laws.DecodeEncode.Statement .ctrxor := fun _ => ⟨by decide, by decide⟩
theorem Sys2Proof.Laws.DecodeEncode.aeadenc : Sys2Proof.Laws.DecodeEncode.Statement .aeadenc := fun _ => ⟨by decide, by decide⟩
theorem Sys2Proof.Laws.DecodeEncode.aeaddec : Sys2Proof.Laws.DecodeEncode.Statement .aeaddec := fun _ => ⟨by decide, by decide⟩
end

