-- ==== Sys2Proof/Laws/Step.lean ====
section
/-!
SUPPORT. What one step of the machine can do, said once.
-/

namespace Sys2Proof.Machine

/-- With no host step pending the core is idle. -/
theorem step_idle {s : State} (h : s.pending = []) : step s = .next s := by
  simp [step, h]

/-- A pending host step is taken. -/
theorem step_serve {s : State} {ev : HostEvent} {rest : List HostEvent} (h : s.pending = ev :: rest) :
    step s = serve ev (s.setPending rest) := by
  simp [step, h]

/-- A host write of a word that encodes a command runs the command. -/
theorem issue_ok {w : Word} {i : Instr} (h : decode w = .ok i) (s : State) : issue w s = exec i s := by
  simp [issue, h]

/-- A host write of an illegal word raises IllegalCommand. -/
theorem issue_error {w : Word} {x : IllegalWord} (h : decode w = .error x) (s : State) :
    issue w s = .next (s.raise .illegalCommand) := by
  simp [issue, h]

/-- If a write to CMD answers a next state, a command ran or the word was illegal. -/
theorem issue_next {w : Word} {s t : State} (h : issue w s = .next t) :
    (∃ i, decode w = .ok i ∧ exec i s = .next t) ∨ (∃ x, decode w = .error x ∧ t = s.raise .illegalCommand) := by
  cases hd : decode w with
  | ok i => exact .inl ⟨i, rfl, issue_ok hd s ▸ h⟩
  | error x =>
    rw [issue_error hd] at h
    injection h with h
    exact .inr ⟨x, rfl, h.symm⟩

/-- If a host write answers a next state, it was a command or it replaced one register the host can write. -/
theorem hostWrite_next {s t : State} {reg : Reg} {v : BitVec reg.width} (h : hostWrite s reg v = .next t) :
    (reg.hostWrites = true ∧ reg.valueLegal s.bufcap.val v = true) ∧
    ((∃ w, HEq v w ∧ reg = .cmd ∧ issue w s = .next t) ∨
     (reg ≠ .cmd ∧ t.err = s.err ∧ t.rkv = s.rkv ∧ t.r = s.r ∧ t.rk = s.rk ∧
      t.aadbuf = s.aadbuf ∧ t.dinbuf = s.dinbuf ∧ t.doutbuf = s.doutbuf ∧
      t.bufcap = s.bufcap ∧ t.pending = s.pending ∧ t.seen = s.seen ∧
      (s.LengthsLegal → t.LengthsLegal))) := by
  cases reg <;> simp only [hostWrite] at h
  case cmd => exact ⟨⟨rfl, rfl⟩, .inl ⟨v, HEq.rfl, rfl, h⟩⟩
  case aadlen =>
    split at h
    · rename_i hv
      injection h with h
      subst h
      exact ⟨⟨rfl, by simpa [Reg.valueLegal] using hv⟩, .inr ⟨by simp, rfl, rfl, rfl, rfl, rfl, rfl, rfl, rfl, rfl, rfl,
        fun hl => ⟨hv, hl.2⟩⟩⟩
    · cases h
  case dlen =>
    split at h
    · rename_i hv
      injection h with h
      subst h
      exact ⟨⟨rfl, by simpa [Reg.valueLegal] using hv⟩, .inr ⟨by simp, rfl, rfl, rfl, rfl, rfl, rfl, rfl, rfl, rfl, rfl,
        fun hl => ⟨hl.1, hv⟩⟩⟩
    · cases h
  all_goals first
    | cases h; done
    | (injection h with h; subst h
       exact ⟨⟨rfl, rfl⟩, .inr ⟨by simp, rfl, rfl, rfl, rfl, rfl, rfl, rfl, rfl, rfl, rfl, id⟩⟩)

/-- If a host step answers a next state, it is one of these five. -/
theorem serve_next {ev : HostEvent} {s t : State} (h : serve ev s = .next t) :
    (∃ reg v, ev = .wr reg v ∧ hostWrite s reg v = .next t) ∨
    (∃ sp off bs, ev = .wrb sp off bs ∧ off + bs.length ≤ s.bufcap.val ∧
      t = s.setBuf sp ((s.buf sp).writeBytes off bs)) ∨
    (∃ reg v, ev = .rd reg ∧ s.hostRead reg = some v ∧ t = s.observe (.reg reg v)) ∨
    (∃ sp off n, ev = .rdb sp off n ∧ off + n ≤ s.bufcap.val ∧
      t = s.observe (.bytes sp off ((s.buf sp).readBytes off n))) ∨
    (∃ d, ev = .reset d ∧ t = s.resetEvent d) := by
  cases ev with
  | wr reg v => exact .inl ⟨reg, v, rfl, h⟩
  | wrb sp off bs =>
    simp only [serve] at h
    split at h
    · rename_i u hu
      obtain ⟨h1, rfl⟩ := memWrite_eq_some.mp hu
      injection h with h
      exact .inr (.inl ⟨sp, off, bs, rfl, h1, h.symm⟩)
    · cases h
  | rd reg =>
    simp only [serve] at h
    split at h
    · rename_i v hv
      injection h with h
      exact .inr (.inr (.inl ⟨reg, v, rfl, hv, h.symm⟩))
    · cases h
  | rdb sp off n =>
    simp only [serve] at h
    split at h
    · rename_i bs hb
      obtain ⟨h1, rfl⟩ := memRead_eq_some.mp hb
      injection h with h
      exact .inr (.inr (.inr (.inl ⟨sp, off, n, rfl, h1, h.symm⟩)))
    · cases h
  | reset d =>
    injection h with h
    exact .inr (.inr (.inr (.inr ⟨d, rfl, h.symm⟩)))

/-- If a step answers a next state, the core was idle or a pending host step was served. -/
theorem step_next {s t : State} (h : step s = .next t) :
    (s.pending = [] ∧ t = s) ∨ (∃ ev rest, s.pending = ev :: rest ∧ serve ev (s.setPending rest) = .next t) := by
  cases hp : s.pending with
  | nil =>
    rw [step_idle hp] at h
    injection h with h
    exact .inl ⟨rfl, h.symm⟩
  | cons ev rest => exact .inr ⟨ev, rest, rfl, step_serve hp ▸ h⟩

end Sys2Proof.Machine
end

