-- ==== Sys2Proof/Tests/Slice0.lean ====
section
/-!
SUPPORT. Small tests of single steps, with expected results from 95_test_vectors.md, and for every obligation that has hypotheses a
concrete state and operands that meet them (witness_...).
-/

namespace Sys2Proof.Tests

open Sys2Proof.Machine

/-! ### The small states -/

/-- Does an outcome end in a next state that passes a check? -/
def endsIn (o : Out) (p : State → Bool) : Bool :=
  match o with
  | .next t => p t
  | .fault _ => false
  | .refused _ => false

theorem endsIn_exists {o : Out} {p : State → Bool} (h : endsIn o p = true) : ∃ t, o = .next t ∧ p t = true := by
  cases o with
  | next t => exact ⟨t, rfl, h⟩
  | fault e => cases h
  | refused e => cases h

/-- The standard key of 95_test_vectors.md. -/
def stdKey : Block := 0x0123456789abcdeffedcba9876543210#128
/-- The standard nonce. -/
def stdNonce : Nonce := 0x000102030405060708090a0b#96
/-- H_std. -/
def stdH : Block := 0x2677f46b09c122cc975533105bd4a22a#128
/-- The tag of V61. -/
def tagV61 : Block := 0xc3e184cff0e22bd6eb640e38314f6c83#128

/-- After reset, with 64 bytes in each buffer. -/
def base : State := State.resetWith ⟨64, by decide⟩ Config.resetData
/-- The standard key ready to be expanded. -/
def keyReady : State := { base with keylen := 16#32, key := stdKey }
/-- The schedule of the standard key loaded. -/
def keyed : State := { base with rk := keyExpand stdKey, rkv := true }
/-- V52: the counter at its largest count, 17 zero bytes. -/
def counting : State := { keyed with a := stdNonce ++ 0xffffffff#32, dlen := 17#64, outcap := 17#64 }
/-- V61: no AAD, the plaintext 00. -/
def sealing : State := { keyed with noncelen := 12#32, nonce := stdNonce, dlen := 1#64, outcap := 1#64 }
/-- V61 the other way: the ciphertext 55 and its tag. -/
def opening : State := { sealing with dinbuf := [(0, 0x55#8)], tag := tagV61 }

/-! ### Well-formedness: one ill-formed term for each check -/

theorem test_wf_refuses_writes :
    (HostEvent.wr .status 0#32).wf 64 = false ∧ (HostEvent.wr .r 0#128).wf 64 = false ∧ (HostEvent.wr (.rk 31) 0#32).wf 64 = false ∧
    (HostEvent.wr .aadlen 65#64).wf 64 = false ∧ (HostEvent.wr .dlen 65#64).wf 64 = false ∧
    (HostEvent.wrb .dinbuf 63 [0x00#8, 0x00#8]).wf 64 = false := by decide

theorem test_wf_refuses_reads :
    (HostEvent.rd .key).wf 64 = false ∧ (HostEvent.rd .cmd).wf 64 = false ∧ (HostEvent.rdb .doutbuf 64 1).wf 64 = false := by decide

theorem test_wf_admits_the_boundaries :
    (HostEvent.wr .aadlen 64#64).wf 64 = true ∧ (HostEvent.wr .dlen 64#64).wf 64 = true ∧
    (HostEvent.wr .outcap 65#64).wf 64 = true ∧ (HostEvent.wrb .aadbuf 63 [0x00#8]).wf 64 = true ∧
    (HostEvent.rdb .doutbuf 0 64).wf 64 = true ∧ Instr.keyexp.wf = true := by decide

/-! ### Decoding: the words of R183 bit by bit, and the illegal words of V80 -/

theorem test_decode_keyexp : decode 0b00000000000000000000000000000001#32 = .ok .keyexp := rfl
theorem test_decode_blkenc : decode 0b00000000000000000000000000000010#32 = .ok .blkenc := rfl
theorem test_decode_gfmul : decode 0b00000000000000000000000000000011#32 = .ok .gfmul := rfl
theorem test_decode_ghash : decode 0b00000000000000000000000000000100#32 = .ok .ghash := rfl
theorem test_decode_ctrxor : decode 0b00000000000000000000000000000101#32 = .ok .ctrxor := rfl
theorem test_decode_aeadenc : decode 0b00000000000000000000000000000110#32 = .ok .aeadenc := rfl
theorem test_decode_aeaddec : decode 0b00000000000000000000000000000111#32 = .ok .aeaddec := rfl
theorem test_decode_illegal :
    decode 0x00000000#32 = .error (.unknownOpcode 0x00#8) ∧ decode 0x00000008#32 = .error (.unknownOpcode 0x08#8) ∧
    decode 0x000000ff#32 = .error (.unknownOpcode 0xff#8) ∧ decode 0x00000102#32 = .error .zeroFieldNotZero ∧
    decode 0x80000006#32 = .error .zeroFieldNotZero := ⟨rfl, rfl, rfl, rfl, rfl⟩

/-- The host's word of the opcode table is decoded, and the next step runs it: a KEYEXP right after reset (P1, line 2). -/
theorem test_table_word : decodeTableWord 32 1 = some .keyexp ∧
    endsIn (step (State.reset.withFetchWord 32 1)) (fun t => t.status == 0x00000001#32) = true := by decide +kernel

/-! ### Word functions (V20) -/

theorem test_tau_and_layers :
    tau 0x01234567#32 = 0x90f473a2#32 ∧ linearL 0x80000000#32 = 0x80820202#32 ∧ linearLk 0x00000001#32 = 0x00802001#32 ∧
    roundT 0x01234567#32 = 0x6ef180c9#32 ∧ roundTk 0x01234567#32 = 0xcfc85b85#32 := by decide +kernel

/-! ### Commands, one step each -/

/-- V10: the first and the last subkey, STATUS = 0x10. -/
theorem test_keyexp_std : endsIn (exec .keyexp keyReady)
    (fun t => t.rk[0] == 0xf12186f9#32 && t.rk[31] == 0x9124a012#32 && t.status == 0x00000010#32 && t.key == stdKey) = true := by
  decide +kernel
/-- V12: KEYLEN = 15 leaves the old schedule valid, STATUS = 0x11. -/
theorem test_keyexp_length : endsIn (exec .keyexp { keyed with keylen := 15#32 })
    (fun t => t.status == 0x00000011#32 && t.rk[31] == 0x9124a012#32) = true := by decide +kernel
/-- V1, the source's own vector. -/
theorem test_blkenc_std : endsIn (exec .blkenc { keyed with a := stdKey })
    (fun t => t.r == 0x681edf34d206965e86b3e94f536e4246#128 && t.status == 0x00000010#32) = true := by decide +kernel
/-- V23. -/
theorem test_blkenc_no_key : endsIn (exec .blkenc { base with r := stdH }) (fun t => t.status == 0x00000005#32 && t.r == stdH) = true := by
  decide +kernel
/-- V30: x^127 times x is x^128 reduced; it runs without a key. -/
theorem test_gfmul_reduces : endsIn (exec .gfmul { base with a := 1#128, b := 0x40000000000000000000000000000000#128 })
    (fun t => t.r == 0xe1000000000000000000000000000000#128 && t.status == 0#32) = true := by decide +kernel
/-- V30, arbitrary operands. -/
theorem test_gfmul_arbitrary : endsIn (exec .gfmul
    { base with a := 0x0388dace60b6a392f328c2b971b2fe78#128, b := 0x66e94bd4ef8a2c3b884cfa59ca342b2e#128 })
    (fun t => t.r == 0x5e2ec746917062882c85b0685353deb7#128) = true := by decide +kernel
/-- V42: one byte of AAD. -/
theorem test_ghash_aad : endsIn (exec .ghash { base with b := stdH, aadbuf := [(0, 0x01#8)], aadlen := 1#64 })
    (fun t => t.r == 0x9c55b02fad005c613b08136d615c01b5#128) = true := by decide +kernel
/-- V44: one byte in each field. -/
theorem test_ghash_fields : endsIn (exec .ghash
    { base with b := stdH, aadbuf := [(0, 0x01#8)], aadlen := 1#64, dinbuf := [(0, 0x02#8)], dlen := 1#64 })
    (fun t => t.r == 0x90ed55a6f591f933bebfa8c37a9d35c4#128) = true := by decide +kernel
/-- V52: the count wraps inside the run; byte 17 is untouched. -/
theorem test_ctrxor_wraps : endsIn (exec .ctrxor counting)
    (fun t => t.doutbuf.readBytes 0 18 == blockBytes 0x83c91f45987d37e3a18cec8c9ed04bb3#128 ++ [0xae#8, 0x00#8] &&
      t.a == counting.a) = true := by decide +kernel
/-- V55: OUTCAP = 16 is too small. -/
theorem test_ctrxor_capacity : endsIn (exec .ctrxor { counting with outcap := 16#64 })
    (fun t => t.status == 0x00000013#32 && t.doutbuf == []) = true := by decide +kernel
/-- V61. -/
theorem test_aeadenc_one_byte : endsIn (exec .aeadenc sealing)
    (fun t => t.doutbuf == [(0, 0x55#8)] && t.tag == tagV61 && t.status == 0x00000010#32) = true := by decide +kernel
/-- V80: the nonce is checked before the buffer. -/
theorem test_aeadenc_nonce_first : endsIn (exec .aeadenc { sealing with noncelen := 11#32, dlen := 17#64, outcap := 16#64 })
    (fun t => t.err == 2#4 && t.tag == 0#128) = true := by decide +kernel
/-- V61, decrypted over a marker byte. -/
theorem test_aeaddec_opens : endsIn (exec .aeaddec { opening with doutbuf := [(0, 0xee#8)] })
    (fun t => t.doutbuf == [] && t.tag == tagV61 && t.err == 0#4) = true := by decide +kernel
/-- V80: the last byte of the tag wrong, nothing is written. -/
theorem test_aeaddec_wrong_tag : endsIn (exec .aeaddec
    { opening with tag := 0xc3e184cff0e22bd6eb640e38314f6c03#128, doutbuf := [(0, 0xee#8)] })
    (fun t => t.doutbuf == [(0, 0xee#8)] && t.err == 4#4) = true := by decide +kernel

/-! ### The host's steps and reset -/

/-- R24: an illegal word sets ERR to 6 and leaves RKV. -/
theorem test_illegal_word : endsIn (step { keyed with pending := [.wr .cmd 0x00000102#32] })
    (fun t => t.status == 0x00000016#32) = true := by decide +kernel
/-- R40: bytes written are the bytes read back. -/
theorem test_buffer_write : endsIn (step { base with pending := [.wrb .dinbuf 62 [0x01#8, 0x02#8]] })
    (fun t => t.dinbuf == [(62, 0x01#8), (63, 0x02#8)] && t.pending == []) = true := by decide +kernel
/-- R41: RESET_DATA stays in the data registers; the lengths and STATUS are zero. -/
theorem test_reset : endsIn (step { keyed with pending := [.reset { Config.resetData with key := stdKey }] })
    (fun t => t.status == 0#32 && t.key == stdKey && t.rk == Config.resetData.rk) = true := by decide +kernel

/-! ### Witnesses: the hypotheses of the obligations can be met -/

/-- EveryWordRunsOrIsIllegal: a bit above 7 set, opcode 0, opcode 8, and a command. -/
theorem witness_every_word :
    (0x00000102#32).extractLsb' 8 24 ≠ 0#24 ∧ (0x00000000#32).extractLsb' 0 8 = 0#8 ∧
    7 < ((0x00000008#32).extractLsb' 0 8).toNat ∧ 0x00000007#32 = 0#24 ++ Instr.aeaddec.opcode ∧
    ({ base with pending := [.wr .cmd 0x00000102#32] } : State).pending = .wr .cmd 0x00000102#32 :: [] := by decide +kernel

/-- StepRunsTheDecodedCommand: a command pending, and none pending. -/
theorem witness_step_runs :
    (({ base with pending := [.wr .cmd 3#32, .rd .r] } : State).pending = .wr .cmd 3#32 :: [.rd .r] ∧
      decode 3#32 = .ok .gfmul ∧ Instr.gfmul.wf = true) ∧ base.pending = [] := ⟨⟨rfl, rfl, rfl⟩, rfl⟩

/-- ListedHostStepsAreAnswered: a legal state and a listed step at the boundary, an OUTCAP above BUFCAP, a reset; a step just past the
boundary and one the host has no right to. -/
theorem witness_host_steps : base.Legal ∧ (HostEvent.wr .aadlen 64#64).wf base.bufcap.val = true ∧
    (HostEvent.wr .outcap 65#64).wf base.bufcap.val = true ∧ (HostEvent.reset Config.resetData).wf base.bufcap.val = true ∧
    (HostEvent.wr .aadlen 65#64).wf base.bufcap.val = false ∧ (HostEvent.rd .key).wf base.bufcap.val = false ∧
    ({ base with pending := [.wr .aadlen 64#64] } : State).Legal := by decide +kernel

/-- HostWriteChangesOneRegister: writes of DLEN = BUFCAP and of BUFCAP + 1, and of OUTCAP above BUFCAP, which is answered. -/
theorem witness_host_write :
    ({ base with pending := [.wr .dlen 64#64] } : State).pending = .wr .dlen 64#64 :: [] ∧ (64#64).toNat ≤ base.bufcap.val ∧
    ({ base with pending := [.wr .dlen 65#64] } : State).pending = .wr .dlen 65#64 :: [] ∧ ¬ (65#64).toNat ≤ base.bufcap.val ∧
    ({ base with pending := [.wr .outcap 65#64] } : State).pending = .wr .outcap 65#64 :: [] ∧
    endsIn (step { base with pending := [.wr .outcap 65#64] }) (fun t => t.outcap == 65#64) = true := by
  decide +kernel

/-- HostReadsGiveTheRegister: reads of the last subkey and of STATUS. -/
theorem witness_host_read :
    ({ base with pending := [.rd (.rk 31)] } : State).pending = .rd (.rk 31) :: [] ∧
    ({ base with pending := [.rd .status] } : State).pending = .rd .status :: [] := ⟨rfl, rfl⟩

/-- BufferWriteSetsTheseBytes and BufferReadGivesTheseBytes: a range that ends at BUFCAP. -/
theorem witness_buffer_range : (base.buf .dinbuf).wf = true ∧ 62 + [0x01#8, 0x02#8].length ≤ base.bufcap.val ∧
    62 + 2 ≤ base.bufcap.val ∧
    ({ base with pending := [.wrb .dinbuf 62 [0x01#8, 0x02#8]] } : State).pending = .wrb .dinbuf 62 [0x01#8, 0x02#8] :: [] ∧
    ({ base with pending := [.rdb .dinbuf 62 2] } : State).pending = .rdb .dinbuf 62 2 :: [] := by decide +kernel

/-- TablesAreThoseOfTheSpec: the last row and column of R62's table, from its closing line S(0xff) = 0x48. -/
theorem witness_table : 15 < 16 ∧ (Sys2Proof.Spec.sRows.getD 15 []).getD 15 0x00#8 = 0x48#8 ∧
    Sys2Proof.Spec.sRows.length = 16 ∧ (∀ row ∈ Sys2Proof.Spec.sRows, row.length = 16) := by decide +kernel

/-- RegisterNumbersAreTheTable: the last number and the first that names nothing. -/
theorem witness_register_numbers : Reg.ofNumber 44 = some (.rk 31) ∧ Reg.ofNumber 45 = none ∧ 44 < 45 ∧ 44 ≤ 44 := by decide

/-- ResetLeavesZeroLengthsAndResetData: a reset pending with data. -/
theorem witness_reset : ({ keyed with pending := [.reset { Config.resetData with doutbuf := [0xee#8] }] } : State).pending =
    .reset { Config.resetData with doutbuf := [0xee#8] } :: [] := rfl

/-- StepKeepsLegalStates and StepTakesOneHostStep: a legal state whose step has a next state. -/
theorem witness_legal_step : ({ keyed with pending := [.wr .dlen 64#64] } : State).Legal ∧
    ∃ t, step { keyed with pending := [.wr .dlen 64#64] } = .next t ∧ (t.dlen == 64#64) = true :=
  ⟨by decide +kernel, endsIn_exists (by decide +kernel)⟩

/-- StepKeepsRoundKeysASchedule: RKV = 1 with the schedule of a key, and a step. -/
theorem witness_schedule_step : ({ keyed with pending := [.rd (.rk 0)] } : State).ScheduleValid ∧
    ∃ t, step { keyed with pending := [.rd (.rk 0)] } = .next t ∧ (t.rkv && t.seen == [.reg (.rk 0) 0xf12186f9#32]) = true :=
  ⟨fun _ => ⟨stdKey, rfl⟩, endsIn_exists (by decide +kernel)⟩

/-- OnlyKeyexpOrResetChangesTheSchedule: a KEYEXP that sets RKV, and a reset that clears it. -/
theorem witness_schedule_changes :
    (∃ t, step { keyReady with pending := [.wr .cmd 1#32] } = .next t ∧ (t.rkv != keyReady.rkv) = true) ∧
    (∃ t, step { keyed with pending := [.reset Config.resetData] } = .next t ∧ (t.rkv != keyed.rkv) = true) :=
  ⟨endsIn_exists (by decide +kernel), endsIn_exists (by decide +kernel)⟩

/-- KeyIsReadByKeyexpAlone: a pending BLKENC is none of the three excluded steps, nor is no step at all. -/
theorem witness_key_unread :
    (∀ rest, ({ keyed with pending := [.wr .cmd 2#32] } : State).pending ≠ .wr .cmd 0x00000001#32 :: rest) ∧
    (∀ v rest, ({ keyed with pending := [.wr .cmd 2#32] } : State).pending ≠ .wr .key v :: rest) ∧
    (∀ d rest, ({ keyed with pending := [.wr .cmd 2#32] } : State).pending ≠ .reset d :: rest) := by
  refine ⟨?_, ?_, ?_⟩ <;> intros <;> simp

/-- FailingCommandChangesOnlyErr and RetryFailsTheSameWay: one command for each error code. -/
theorem witness_failing :
    (∃ t, issue 1#32 base = .next t ∧ (t.err == 1#4) = true) ∧
    (∃ t, issue 6#32 { sealing with noncelen := 11#32 } = .next t ∧ (t.err == 2#4) = true) ∧
    (∃ t, issue 5#32 { counting with outcap := 16#64 } = .next t ∧ (t.err == 3#4) = true) ∧
    (∃ t, issue 7#32 { opening with tag := 0#128 } = .next t ∧ (t.err == 4#4) = true) ∧
    (∃ t, issue 2#32 base = .next t ∧ (t.err == 5#4) = true) ∧
    (∃ t, issue 0#32 base = .next t ∧ (t.err == 6#4) = true) :=
  ⟨endsIn_exists (by decide +kernel), endsIn_exists (by decide +kernel), endsIn_exists (by decide +kernel),
   endsIn_exists (by decide +kernel), endsIn_exists (by decide +kernel), endsIn_exists (by decide +kernel)⟩

/-- OutcomeCodeIsTheFirstInPriority: legal states; a word of each branch at the boundary. -/
theorem witness_legal : keyed.Legal ∧ counting.Legal ∧ sealing.Legal ∧ opening.Legal := by decide +kernel

/-- CommandsWriteOnlyTheirWriteSet: a command of each clause runs; DLEN is the first offset outside. -/
theorem witness_write_set :
    (∃ t, exec .ctrxor counting = .next t ∧ (t.err == 0#4) = true) ∧ counting.dlen.toNat ≤ 17 ∧
    (∃ t, exec .keyexp keyReady = .next t ∧ (t.err == 0#4) = true) ∧
    (∃ t, exec .aeaddec opening = .next t ∧ (t.err == 0#4) = true) ∧
    (∃ t, exec .gfmul base = .next t ∧ (t.err == 0#4) = true) :=
  ⟨endsIn_exists (by decide +kernel), by decide, endsIn_exists (by decide +kernel), endsIn_exists (by decide +kernel),
   endsIn_exists (by decide +kernel)⟩

/-- LengthAboveBufcapFaults: lengths one above BUFCAP. -/
theorem witness_length_above :
    base.bufcap.val < ({ base with aadlen := 65#64 } : State).aadlen.toNat ∧
    (base.aadlen.toNat ≤ base.bufcap.val ∧ base.bufcap.val < ({ base with dlen := 65#64 } : State).dlen.toNat) ∧
    (let s : State := { sealing with dlen := 65#64, outcap := 65#64 }
     s.rkv = true ∧ s.noncelen = 12#32 ∧ s.dlen ≤ s.outcap ∧ s.aadlen.toNat ≤ s.bufcap.val ∧ s.bufcap.val < s.dlen.toNat) ∧
    (let s : State := { sealing with aadlen := 65#64 }
     s.rkv = true ∧ s.noncelen = 12#32 ∧ s.dlen ≤ s.outcap ∧ s.bufcap.val < s.aadlen.toNat) := by decide +kernel

/-- KeyexpLoadsTheSchedule: KEYLEN = 16 and KEYLEN = 15. -/
theorem witness_keyexp : keyReady.keylen = 16#32 ∧ ({ keyReady with keylen := 15#32 } : State).keylen ≠ 16#32 := by decide

/-- BlkencWritesTheTransform: RKV = 1 and RKV = 0. -/
theorem witness_blkenc : keyed.rkv = true ∧ base.rkv = false := by decide

/-- GhashFoldsTheThreeFields: both lengths at BUFCAP. -/
theorem witness_ghash : ({ base with aadlen := 64#64, dlen := 64#64 } : State).LengthsLegal := by decide

/-- LengthBlockHoldsBitLengths: the largest lengths. -/
theorem witness_length_block : 2 ^ 61 - 1 ≤ 2 ^ 61 - 1 ∧ ((lenBlock (2 ^ 61 - 1) 0).extractLsb' 64 64).toNat = 2 ^ 64 - 8 := by
  decide +kernel

/-- CtrxorXorsTheKeystream: DLEN = OUTCAP = BUFCAP; no schedule; OUTCAP one too small. -/
theorem witness_ctrxor :
    (let s : State := { counting with dlen := 64#64, outcap := 64#64 }
     s.rkv = true ∧ s.dlen ≤ s.outcap ∧ s.dlen.toNat ≤ s.bufcap.val ∧ s.doutbuf.wf = true) ∧
    base.rkv = false ∧ (counting.rkv = true ∧ ({ counting with outcap := 16#64 } : State).outcap < counting.dlen) := by decide +kernel

/-- AeadencSealsTheMessage and AeaddecVerifiesBeforeRelease: the register checks passed, and each check failed. -/
theorem witness_aead_checks :
    (sealing.rkv = true ∧ sealing.noncelen = 12#32 ∧ sealing.dlen ≤ sealing.outcap ∧ sealing.LengthsLegal ∧
      sealing.doutbuf.wf = true) ∧
    base.rkv = false ∧ (keyed.rkv = true ∧ keyed.noncelen ≠ 12#32) ∧
    (sealing.rkv = true ∧ sealing.noncelen = 12#32 ∧ ({ sealing with outcap := 0#64 } : State).outcap < sealing.dlen) := by
  decide +kernel

/-- AeaddecVerifiesBeforeRelease: a tag that verifies and one that does not. -/
theorem witness_aead_tags : opening.tag = Sys2Proof.Spec.expectedTag opening ∧
    ({ opening with tag := 0#128 } : State).tag ≠ Sys2Proof.Spec.expectedTag opening := by decide +kernel

/-- DecryptOfEncryptIsThePlaintext: a legal state whose AEADENC succeeds, and the ciphertext as input. -/
theorem witness_round_trip : sealing.Legal ∧ sealing.dlen.toNat = 1 ∧
    ∃ t, exec .aeadenc sealing = .next t ∧ (t.err == 0#4 && Memory.read [(0, 0x55#8)] 0 == t.doutbuf.read 0) = true :=
  ⟨by decide +kernel, by decide, endsIn_exists (by decide +kernel)⟩

/-- WrongTagIsRejected: a message that verifies, and another tag. -/
theorem witness_wrong_tag : (∃ t, exec .aeaddec opening = .next t ∧ (t.err == 0#4) = true) ∧ 0#128 ≠ opening.tag :=
  ⟨endsIn_exists (by decide +kernel), by decide⟩

/-- V65's AAD and tag: five bytes of AAD and no data. -/
def openingAad : State := { keyed with
  noncelen := 12#32, nonce := stdNonce, aadlen := 5#64,
  aadbuf := [(0, 0xa0#8), (1, 0xa1#8), (2, 0xa2#8), (3, 0xa3#8), (4, 0xa4#8)],
  tag := 0x24fd0ce495ec136e587f04af2421919e#128 }

/-- FlippedBitIsRejected: messages that verify, one with data and one with AAD, a subkey that is not zero, and bits at both ends. -/
theorem witness_flipped_bit : opening.Legal ∧ openingAad.Legal ∧ blockE opening.rk 0#128 ≠ 0#128 ∧
    (∃ t, exec .aeaddec opening = .next t ∧ (t.err == 0#4) = true) ∧ 0 < opening.dlen.toNat ∧
    (∃ t, exec .aeaddec openingAad = .next t ∧ (t.err == 0#4) = true) ∧ 4 < openingAad.aadlen.toNat ∧ 7 < 8 :=
  ⟨by decide +kernel, by decide +kernel, by decide +kernel, endsIn_exists (by decide +kernel), by decide,
   endsIn_exists (by decide +kernel), by decide, by decide⟩

/-- AeadencDependsOnItsOperandsAlone: two states that differ in a register AEADENC does not read, and in DOUTBUF. -/
theorem witness_same_operands :
    let s' : State := { sealing with a := stdH, doutbuf := [(1, 0xee#8)] }
    sealing.doutbuf.wf = true ∧ s'.doutbuf.wf = true ∧ (∃ t, exec .aeadenc sealing = .next t ∧ (t.err == 0#4) = true) ∧
    (∃ t, exec .aeadenc s' = .next t ∧ (t.err == 0#4) = true) ∧
    sealing.rk = s'.rk ∧ sealing.nonce = s'.nonce ∧ sealing.aadlen = s'.aadlen ∧ sealing.dlen = s'.dlen ∧
    sealing.aadbuf = s'.aadbuf ∧ sealing.dinbuf = s'.dinbuf :=
  ⟨by decide, by decide, endsIn_exists (by decide +kernel), endsIn_exists (by decide +kernel), rfl, rfl, rfl, rfl, rfl, rfl⟩

/-- AeadencIsComposedOfPrimitives: the five commands of R188 all end in a next state. -/
theorem witness_composition : sealing.Legal ∧
    (∃ t, exec .aeadenc sealing = .next t ∧ (t.err == 0#4) = true) ∧
    (∃ t, exec .blkenc { sealing with a := 0#128 } = .next t ∧ (t.r == stdH) = true) ∧
    (∃ t, exec .ctrxor { sealing with a := stdNonce ++ 2#32 } = .next t ∧
      (t.doutbuf.read 0 == Memory.read [(0, 0x55#8)] 0) = true) ∧
    (∃ t, exec .ghash { sealing with b := stdH, dinbuf := [(0, 0x55#8)] } = .next t ∧
      (t.r == 0x624ead3c8856c326b74eebae88d83f75#128) = true) ∧
    (∃ t, exec .blkenc { sealing with a := stdNonce ++ 1#32 } = .next t ∧
      (t.r == 0xa1af29f378b4e8f05c2ae596b99753f6#128) = true) :=
  ⟨by decide +kernel, endsIn_exists (by decide +kernel), endsIn_exists (by decide +kernel), endsIn_exists (by decide +kernel),
   endsIn_exists (by decide +kernel), endsIn_exists (by decide +kernel)⟩

/-- FirstCommandAfterReset: its command hypothesis, with the largest BUFCAP. -/
theorem witness_first_command : Instr.aeaddec = .blkenc ∨ Instr.aeaddec = .ctrxor ∨ Instr.aeaddec = .aeadenc ∨
    Instr.aeaddec = .aeaddec := by decide

end Sys2Proof.Tests
end

section
/-!
What one step of the CORE changes, said once for a command, for a host step and for a whole step, and the statements of
10_state.md that rest on it: the invariants (O14, O15), the life of the round keys (O16), the host's own record (O17) and the
write set of each command (O23).
-/

namespace Sys2Proof.Machine

/-! ### Decoding a command word -/

/-- A word is its two fields (R181). -/
theorem zeroField_append_opcodeField (w : Word) : zeroField w ++ opcodeField w = w :=
  BitVec.extractLsb'_append_extractLsb'

theorem eq_opcode_of_decodeOpcode {op : Byte} {i : Instr} (h : decodeOpcode op = some i) : op = i.opcode := by
  unfold decodeOpcode at h
  repeat' split at h
  all_goals cases h
  all_goals assumption

/-- Only the word of a command decodes to it (R183). -/
theorem eq_encode_of_decode {w : Word} {i : Instr} (h : decode w = .ok i) : w = encode i := by
  unfold decode at h
  split at h
  · cases h
  · rename_i hz
    split at h
    · rename_i j hj
      cases h
      rw [encode, ← eq_opcode_of_decodeOpcode hj, ← not_not.mp hz, zeroField_append_opcodeField]
    · cases h

/-- The word of a command decodes to it (R183). -/
theorem decode_encode (i : Instr) : decode (encode i) = .ok i := by
  cases i with
  | keyexp => exact (Laws.DecodeEncode.keyexp rfl).2
  | blkenc => exact (Laws.DecodeEncode.blkenc rfl).2
  | gfmul => exact (Laws.DecodeEncode.gfmul rfl).2
  | ghash => exact (Laws.DecodeEncode.ghash rfl).2
  | ctrxor => exact (Laws.DecodeEncode.ctrxor rfl).2
  | aeadenc => exact (Laws.DecodeEncode.aeadenc rfl).2
  | aeaddec => exact (Laws.DecodeEncode.aeaddec rfl).2

/-! ### The lengths of what the commands write -/

@[simp] theorem ctrXor_length (rk : Vector Word 32) (c : Block) (data : List Byte) :
    (ctrXor rk c data).length = data.length :=
  (ctrXor_spec rk c data).1

@[simp] theorem sealMessage_length (rk : Vector Word 32) (nonce : Nonce) (aad pt : List Byte) :
    (sealMessage rk nonce aad pt).1.length = pt.length :=
  ctrXor_length rk _ pt

theorem openMessage_length {rk : Vector Word 32} {nonce : Nonce} {aad ct pt : List Byte} {tag : Block}
    (h : openMessage rk nonce aad ct tag = some pt) : pt.length = ct.length := by
  unfold openMessage at h
  split at h
  · cases h
    exact ctrXor_length rk _ ct
  · cases h

/-! ### What a command writes -/

/-- The state after DOUTBUF[0..len(v)) has been written. -/
def State.withOutput (s : State) (v : List Byte) : State := s.setBuf .doutbuf (s.doutbuf.writeBytes 0 v)

/-- The five ways a command ends in a next state: an error, a schedule, a result in R, an output in DOUTBUF, and an output in
DOUTBUF with its TAG. An output has DLEN bytes (R43, R135). -/
inductive CommandEnd (s : State) : Instr → State → Prop
  | raised (i : Instr) (e : Err) : CommandEnd s i (s.raise e)
  | schedule (hlen : s.keylen = 16#32) : CommandEnd s .keyexp (s.loadSchedule (keyExpand s.key)).succeed
  | result (i : Instr) (hi : i = .blkenc ∨ i = .gfmul ∨ i = .ghash) (v : Block) : CommandEnd s i (s.setR v).succeed
  | output (i : Instr) (hi : i = .ctrxor ∨ i = .aeaddec) (v : List Byte) (hv : v.length = s.dlen.toNat)
      (hcap : v.length ≤ s.bufcap.val) : CommandEnd s i (s.withOutput v).succeed
  | outputTag (v : List Byte) (tag : Block) (hv : v.length = s.dlen.toNat) (hcap : v.length ≤ s.bufcap.val) :
      CommandEnd s .aeadenc ((s.withOutput v).setTag tag).succeed

/-- Every command ends in one of the five ways. -/
theorem exec_next {i : Instr} {s t : State} (h : exec i s = .next t) : CommandEnd s i t := by
  cases i with
  | keyexp =>
    obtain ⟨_, rfl⟩ | ⟨hlen, rfl⟩ := execKeyexp_next h
    · exact .raised _ _
    · exact .schedule hlen
  | blkenc =>
    obtain ⟨_, rfl⟩ | ⟨_, rfl⟩ := execBlkenc_next h
    · exact .raised _ _
    · exact .result _ (.inl rfl) _
  | gfmul =>
    obtain rfl := execGfmul_next h
    exact .result _ (.inr (.inl rfl)) _
  | ghash =>
    obtain ⟨_, rfl⟩ := execGhash_next h
    exact .result _ (.inr (.inr rfl)) _
  | ctrxor =>
    obtain ⟨_, rfl⟩ | ⟨_, _, rfl⟩ | ⟨_, _, _, hcap, rfl⟩ := execCtrxor_next h
    · exact .raised _ _
    · exact .raised _ _
    · exact .output _ (.inl rfl) _ (by simp) hcap
  | aeadenc =>
    obtain ⟨_, rfl⟩ | ⟨_, _, rfl⟩ | ⟨_, _, _, rfl⟩ | ⟨_, _, _, _, hcap, rfl⟩ := execAeadenc_next h
    · exact .raised _ _
    · exact .raised _ _
    · exact .raised _ _
    · exact .outputTag _ _ (by simp) hcap
  | aeaddec =>
    obtain ⟨_, rfl⟩ | ⟨_, _, rfl⟩ | ⟨_, _, _, rfl⟩ | ⟨_, _, _, _, _, rfl⟩ | ⟨_, _, _, _, pt, hpt, hcap, rfl⟩ :=
      execAeaddec_next h
    · exact .raised _ _
    · exact .raised _ _
    · exact .raised _ _
    · exact .raised _ _
    · exact .output _ (.inr rfl) pt (by simp [openMessage_length hpt]) hcap

/-! ### Legal states -/

/-- A write of STATUS.ERR with a code of R131 keeps a state legal. -/
theorem legal_setErr {s : State} (h : s.Legal) {c : BitVec 4} (hc : c.toNat ≤ 6) : (s.setErr c).Legal :=
  ⟨hc, h.2⟩

theorem legal_raise {s : State} (h : s.Legal) (e : Err) : (s.raise e).Legal := legal_setErr h (code_range e).2

theorem legal_succeed {s : State} (h : s.Legal) : s.succeed.Legal := legal_setErr h (by decide)

/-- Every buffer of a legal state is legal. -/
theorem legal_buf {s : State} (h : s.Legal) (sp : Space) : (s.buf sp).Legal s.bufcap.val := by
  obtain ⟨_, _, _, haad, hdin, hdout⟩ := h
  cases sp with
  | aadbuf => exact haad
  | dinbuf => exact hdin
  | doutbuf => exact hdout

/-- A legal buffer put in place of another keeps a state legal. -/
theorem legal_setBuf {s : State} (h : s.Legal) {sp : Space} {m : Memory} (hm : m.Legal s.bufcap.val) :
    (s.setBuf sp m).Legal := by
  obtain ⟨herr, haadlen, hdlen, haad, hdin, hdout⟩ := h
  cases sp with
  | aadbuf => exact ⟨herr, haadlen, hdlen, hm, hdin, hdout⟩
  | dinbuf => exact ⟨herr, haadlen, hdlen, haad, hm, hdout⟩
  | doutbuf => exact ⟨herr, haadlen, hdlen, haad, hdin, hm⟩

/-- A byte string written below BUFCAP keeps a state legal (R48). -/
theorem legal_memWrite {s : State} (h : s.Legal) (sp : Space) {off : Nat} {bs : List Byte}
    (hb : off + bs.length ≤ s.bufcap.val) : (s.setBuf sp ((s.buf sp).writeBytes off bs)).Legal :=
  legal_setBuf h (writeBytes_legal (legal_buf h sp) hb)

/-- The state after reset is legal, whatever BUFCAP and RESET_DATA are (R41). -/
theorem legal_resetWith (cap : Fin (2 ^ 61)) (d : ResetData) : (State.resetWith cap d).Legal :=
  ⟨Nat.zero_le _, Nat.zero_le _, Nat.zero_le _, ofBytes_legal _ _, ofBytes_legal _ _, ofBytes_legal _ _⟩

theorem exec_keeps_legal {i : Instr} {s t : State} (hs : s.Legal) (h : exec i s = .next t) : t.Legal := by
  cases exec_next h with
  | raised _ e => exact legal_raise hs e
  | schedule => exact legal_succeed (s := s.loadSchedule _) hs
  | result _ _ v => exact legal_succeed (s := s.setR v) hs
  | output _ _ v _ hcap => exact legal_succeed (legal_memWrite hs .doutbuf (by omega))
  | outputTag v tag _ hcap =>
    have hout : (s.withOutput v).Legal := legal_memWrite hs .doutbuf (by omega)
    exact legal_succeed (s := (s.withOutput v).setTag tag) hout

theorem issue_keeps_legal {w : Word} {s t : State} (hs : s.Legal) (h : issue w s = .next t) : t.Legal := by
  obtain ⟨i, _, hi⟩ | ⟨_, _, rfl⟩ := issue_next h
  · exact exec_keeps_legal hs hi
  · exact legal_raise hs _

theorem hostWrite_keeps_legal {reg : Reg} {v : BitVec reg.width} {s t : State} (hs : s.Legal)
    (h : hostWrite s reg v = .next t) : t.Legal := by
  obtain ⟨_, ⟨w, _, _, hw⟩ | ⟨_, herr, _, _, _, haad, hdin, hdout, hcap, _, _, hlen⟩⟩ := hostWrite_next h
  · exact issue_keeps_legal hs hw
  · obtain ⟨hserr, hsaadlen, hsdlen, hsbufs⟩ := hs
    obtain ⟨haadlen, hdlen⟩ := hlen ⟨hsaadlen, hsdlen⟩
    refine ⟨herr ▸ hserr, haadlen, hdlen, ?_⟩
    rw [haad, hdin, hdout, hcap]
    exact hsbufs

theorem serve_keeps_legal {ev : HostEvent} {s t : State} (hs : s.Legal) (h : serve ev s = .next t) : t.Legal := by
  obtain ⟨_, _, _, hw⟩ | ⟨sp, _, _, _, hb, rfl⟩ | ⟨_, _, _, _, rfl⟩ | ⟨_, _, _, _, _, rfl⟩ | ⟨d, _, rfl⟩ := serve_next h
  · exact hostWrite_keeps_legal hs hw
  · exact legal_memWrite hs sp hb
  · exact hs
  · exact hs
  · exact legal_resetWith s.bufcap d

/-- Settles O14: taking a host step off the list changes nothing a legal state speaks of, and serving it keeps the state legal. -/
theorem stepKeepsLegalStates : Obligations.StepKeepsLegalStates := by
  intro s t hs h
  obtain ⟨_, rfl⟩ | ⟨ev, rest, _, hev⟩ := step_next h
  · exact hs
  · exact serve_keeps_legal (s := s.setPending rest) hs hev

/-! ### The round keys -/

theorem exec_schedule {i : Instr} {s t : State} (h : exec i s = .next t) :
    (t.rk = s.rk ∧ t.rkv = s.rkv) ∨ (i = .keyexp ∧ s.keylen = 16#32 ∧ t.rk = keyExpand s.key) := by
  cases exec_next h with
  | schedule hlen => exact .inr ⟨rfl, hlen, rfl⟩
  | raised => exact .inl ⟨rfl, rfl⟩
  | result => exact .inl ⟨rfl, rfl⟩
  | output => exact .inl ⟨rfl, rfl⟩
  | outputTag => exact .inl ⟨rfl, rfl⟩

/-- What a host step can do to RK and RKV: nothing, or KEYEXP loads a schedule, or a reset clears RKV (R34, R42). -/
theorem serve_schedule {ev : HostEvent} {s t : State} (h : serve ev s = .next t) :
    (t.rk = s.rk ∧ t.rkv = s.rkv) ∨
    (ev = .wr .cmd 0x00000001#32 ∧ s.keylen = 16#32 ∧ t.rk = keyExpand s.key) ∨
    (∃ d, ev = .reset d ∧ t.rkv = false) := by
  obtain ⟨reg, v, rfl, hw⟩ | ⟨sp, _, _, _, _, rfl⟩ | ⟨_, _, _, _, rfl⟩ | ⟨_, _, _, _, _, rfl⟩ | ⟨d, rfl, rfl⟩ :=
    serve_next h
  · obtain ⟨_, ⟨w, hvw, rfl, hw⟩ | ⟨_, _, hrkv, _, hrk, _⟩⟩ := hostWrite_next hw
    · cases hvw
      obtain ⟨i, hd, hi⟩ | ⟨_, _, rfl⟩ := issue_next hw
      · obtain hkept | ⟨rfl, hlen, hrk⟩ := exec_schedule hi
        · exact .inl hkept
        · exact .inr (.inl ⟨by rw [eq_encode_of_decode hd]; rfl, hlen, hrk⟩)
      · exact .inl ⟨rfl, rfl⟩
    · exact .inl ⟨hrk, hrkv⟩
  · cases sp <;> exact .inl ⟨rfl, rfl⟩
  · exact .inl ⟨rfl, rfl⟩
  · exact .inl ⟨rfl, rfl⟩
  · exact .inr (.inr ⟨d, rfl, rfl⟩)

/-- Settles O15: KEYEXP loads a schedule, a reset clears RKV, and no other step touches RK or RKV. -/
theorem stepKeepsRoundKeysASchedule : Obligations.StepKeepsRoundKeysASchedule := by
  intro s t hs h
  obtain ⟨_, rfl⟩ | ⟨ev, rest, _, hev⟩ := step_next h
  · exact hs
  · intro hv
    obtain ⟨hrk, hrkv⟩ | ⟨_, _, hrk⟩ | ⟨_, _, hclear⟩ := serve_schedule hev
    · obtain ⟨key, hkey⟩ := hs (hrkv ▸ hv)
      exact ⟨key, hrk.trans hkey⟩
    · exact ⟨s.key, hrk⟩
    · exact absurd (hv.symm.trans hclear) (by decide)

/-- Settles O16: of the three things a host step can do to RK and RKV, the first is excluded. -/
theorem onlyKeyexpOrResetChangesTheSchedule : Obligations.OnlyKeyexpOrResetChangesTheSchedule := by
  intro s t h hchange
  obtain ⟨_, rfl⟩ | ⟨ev, rest, hp, hev⟩ := step_next h
  · simp at hchange
  · obtain ⟨hrk, hrkv⟩ | ⟨rfl, hlen, _⟩ | ⟨d, rfl, _⟩ := serve_schedule hev
    · exact absurd hchange (not_or.mpr ⟨not_not.mpr hrk, not_not.mpr hrkv⟩)
    · exact .inr ⟨hlen, rest, hp⟩
    · exact .inl ⟨d, rest, hp⟩

/-! ### The write set of each command, and the host's own record -/

/-- What no command writes: the input registers, the two input buffers, and the model's own fields (R43). -/
theorem exec_keeps_inputs {i : Instr} {s t : State} (h : exec i s = .next t) :
    t.keylen = s.keylen ∧ t.key = s.key ∧ t.noncelen = s.noncelen ∧ t.nonce = s.nonce ∧ t.aadlen = s.aadlen ∧
      t.dlen = s.dlen ∧ t.outcap = s.outcap ∧ t.a = s.a ∧ t.b = s.b ∧ t.aadbuf = s.aadbuf ∧ t.dinbuf = s.dinbuf ∧
      t.bufcap = s.bufcap ∧ t.pending = s.pending ∧ t.seen = s.seen := by
  cases exec_next h <;> exact ⟨rfl, rfl, rfl, rfl, rfl, rfl, rfl, rfl, rfl, rfl, rfl, rfl, rfl, rfl⟩

theorem exec_keeps_r {i : Instr} {s t : State} (h : exec i s = .next t) (h1 : i ≠ .blkenc) (h2 : i ≠ .gfmul)
    (h3 : i ≠ .ghash) : t.r = s.r := by
  cases exec_next h with
  | result _ hi => simp [h1, h2, h3] at hi
  | raised => rfl
  | schedule => rfl
  | output => rfl
  | outputTag => rfl

theorem exec_keeps_tag {i : Instr} {s t : State} (h : exec i s = .next t) (h1 : i ≠ .aeadenc) : t.tag = s.tag := by
  cases exec_next h with
  | outputTag => exact absurd rfl h1
  | raised => rfl
  | schedule => rfl
  | result => rfl
  | output => rfl

theorem exec_keeps_doutbuf {i : Instr} {s t : State} (h : exec i s = .next t) (h1 : i ≠ .ctrxor) (h2 : i ≠ .aeadenc)
    (h3 : i ≠ .aeaddec) : t.doutbuf = s.doutbuf := by
  cases exec_next h with
  | output _ hi => simp [h1, h3] at hi
  | outputTag => exact absurd rfl h2
  | raised => rfl
  | schedule => rfl
  | result => rfl

/-- An output of DLEN bytes leaves the bytes of DOUTBUF at DLEN and above (R48). -/
theorem exec_keeps_doutbuf_above {i : Instr} {s t : State} (h : exec i s = .next t) {k : Nat} (hk : s.dlen.toNat ≤ k) :
    t.doutbuf.read k = s.doutbuf.read k := by
  cases exec_next h with
  | output _ _ v hv => exact read_writeBytes_outside _ 0 v (.inr (by omega))
  | outputTag v _ hv => exact read_writeBytes_outside _ 0 v (.inr (by omega))
  | raised => rfl
  | schedule => rfl
  | result => rfl

/-- Settles O23: each clause holds of each of the five ways a command ends. -/
theorem commandsWriteOnlyTheirWriteSet : Obligations.CommandsWriteOnlyTheirWriteSet := by
  intro i s t h
  refine ⟨exec_keeps_inputs h, exec_keeps_r h, exec_keeps_tag h, fun hi => ?_, exec_keeps_doutbuf h,
    fun k hk => exec_keeps_doutbuf_above h hk⟩
  exact (exec_schedule h).resolve_right fun hk => hi hk.1

/-- A host step leaves BUFCAP and the steps still to come, and what the host has read only grows. -/
theorem serve_hostRecord {ev : HostEvent} {s t : State} (h : serve ev s = .next t) :
    t.bufcap = s.bufcap ∧ t.pending = s.pending ∧ s.seen <+: t.seen := by
  have same {u : State} (hcap : u.bufcap = s.bufcap) (hpend : u.pending = s.pending) (hseen : u.seen = s.seen) :
      u.bufcap = s.bufcap ∧ u.pending = s.pending ∧ s.seen <+: u.seen :=
    ⟨hcap, hpend, [], by rw [hseen, List.append_nil]⟩
  obtain ⟨_, _, _, hw⟩ | ⟨sp, _, _, _, _, rfl⟩ | ⟨_, _, _, _, rfl⟩ | ⟨_, _, _, _, _, rfl⟩ | ⟨_, _, rfl⟩ := serve_next h
  · obtain ⟨_, ⟨_, _, _, hw⟩ | ⟨_, _, _, _, _, _, _, _, hcap, hpend, hseen, _⟩⟩ := hostWrite_next hw
    · obtain ⟨_, _, hi⟩ | ⟨_, _, rfl⟩ := issue_next hw
      · obtain ⟨_, _, _, _, _, _, _, _, _, _, _, hcap, hpend, hseen⟩ := exec_keeps_inputs hi
        exact same hcap hpend hseen
      · exact same rfl rfl rfl
    · exact same hcap hpend hseen
  · cases sp <;> exact same rfl rfl rfl
  · exact ⟨rfl, rfl, _, rfl⟩
  · exact ⟨rfl, rfl, _, rfl⟩
  · exact same rfl rfl rfl

/-- Settles O17: the step itself takes the host step off the list, and serving it keeps the record. -/
theorem stepTakesOneHostStep : Obligations.StepTakesOneHostStep := by
  intro s t h
  obtain ⟨hp, rfl⟩ | ⟨ev, rest, hp, hev⟩ := step_next h
  · exact ⟨rfl, by simp [hp], [], List.append_nil _⟩
  · obtain ⟨hcap, hpend, hseen⟩ := serve_hostRecord hev
    exact ⟨hcap, by rw [hpend, hp]; rfl, hseen⟩

end Sys2Proof.Machine
end

section
/-!
What a command does not read, and the statements of 10_state.md that say so: KEY is read by KEYEXP alone (O18) and STATUS.ERR by
no command (O21). Each shared operation is shown to commute with the change of the register; a command is built from these.
-/

namespace Sys2Proof.Machine

/-! ### KEY -/

/-- The state with another value of KEY. -/
def State.withKey (k : Block) (s : State) : State := { s with key := k }

@[simp] theorem withKey_aadlen (k : Block) (s : State) : (s.withKey k).aadlen = s.aadlen := rfl
@[simp] theorem withKey_dlen (k : Block) (s : State) : (s.withKey k).dlen = s.dlen := rfl
@[simp] theorem withKey_nonce (k : Block) (s : State) : (s.withKey k).nonce = s.nonce := rfl
@[simp] theorem withKey_tag (k : Block) (s : State) : (s.withKey k).tag = s.tag := rfl
@[simp] theorem withKey_rk (k : Block) (s : State) : (s.withKey k).rk = s.rk := rfl
@[simp] theorem withKey_bufcap (k : Block) (s : State) : (s.withKey k).bufcap = s.bufcap := rfl

/-- The error exit commutes with a change of KEY. -/
theorem raiseIf_withKey {k : Block} {s : State} {cond : Bool} {e : Err} {o o' : Out}
    (h : o' = outcomeMap (State.withKey k) o) :
    (s.withKey k).raiseIf cond e o' = outcomeMap (State.withKey k) (s.raiseIf cond e o) := by
  cases cond with
  | true => rfl
  | false => exact h

/-- A buffer read does not see KEY. -/
theorem memRead_withKey (k : Block) (s : State) (sp : Space) (off n : Nat) :
    (s.withKey k).memRead sp off n = s.memRead sp off n := by
  cases sp <;> rfl

/-- A buffer write commutes with a change of KEY. -/
theorem memWrite_withKey (k : Block) (s : State) (sp : Space) (off : Nat) (bs : List Byte) :
    (s.withKey k).memWrite sp off bs = (s.memWrite sp off bs).map (State.withKey k) := by
  by_cases hb : off + bs.length ≤ s.bufcap.val
  · rw [memWrite_eq_some.mpr ⟨hb, rfl⟩]
    cases sp <;> exact memWrite_eq_some.mpr ⟨hb, rfl⟩
  · simp [State.memWrite, hb]

/-- The AAD operand does not see KEY. -/
theorem readAad_withKey {k : Block} {s : State} {f f' : List Byte → Out}
    (h : ∀ bs, f' bs = outcomeMap (State.withKey k) (f bs)) :
    (s.withKey k).readAad f' = outcomeMap (State.withKey k) (s.readAad f) := by
  simp only [State.readAad, memRead_withKey, withKey_aadlen]
  cases s.memRead .aadbuf 0 s.aadlen.toNat with
  | some bs => exact h bs
  | none => rfl

/-- The data operand does not see KEY. -/
theorem readData_withKey {k : Block} {s : State} {f f' : List Byte → Out}
    (h : ∀ bs, f' bs = outcomeMap (State.withKey k) (f bs)) :
    (s.withKey k).readData f' = outcomeMap (State.withKey k) (s.readData f) := by
  simp only [State.readData, memRead_withKey, withKey_dlen]
  cases s.memRead .dinbuf 0 s.dlen.toNat with
  | some bs => exact h bs
  | none => rfl

/-- The output commutes with a change of KEY. -/
theorem writeData_withKey {k : Block} {s : State} {v : List Byte} {f f' : State → Out}
    (h : ∀ t, f' (t.withKey k) = outcomeMap (State.withKey k) (f t)) :
    (s.withKey k).writeData v f' = outcomeMap (State.withKey k) (s.writeData v f) := by
  unfold State.writeData
  rw [memWrite_withKey]
  cases s.memWrite .doutbuf 0 v with
  | some t => exact h t
  | none => rfl

/-- Every command but KEYEXP commutes with a change of KEY (R42, R74). -/
theorem exec_withKey {i : Instr} (hi : i ≠ .keyexp) (k : Block) (s : State) :
    exec i (s.withKey k) = outcomeMap (State.withKey k) (exec i s) := by
  cases i with
  | keyexp => exact absurd rfl hi
  | blkenc => exact raiseIf_withKey rfl
  | gfmul => rfl
  | ghash => exact readAad_withKey fun _ => readData_withKey fun _ => rfl
  | ctrxor => exact raiseIf_withKey (raiseIf_withKey (readData_withKey fun _ => writeData_withKey fun _ => rfl))
  | aeadenc =>
    exact raiseIf_withKey (raiseIf_withKey (raiseIf_withKey
      (readAad_withKey fun _ => readData_withKey fun _ => writeData_withKey fun _ => rfl)))
  | aeaddec =>
    refine raiseIf_withKey (raiseIf_withKey (raiseIf_withKey (readAad_withKey fun aad => readData_withKey fun ct => ?_)))
    simp only [withKey_rk, withKey_nonce, withKey_tag]
    cases openMessage s.rk s.nonce aad ct s.tag with
    | none => rfl
    | some pt => exact writeData_withKey fun _ => rfl

/-- A write to CMD of any word but KEYEXP's commutes with a change of KEY. -/
theorem issue_withKey {w : Word} (hw : w ≠ 0x00000001#32) (k : Block) (s : State) :
    issue w (s.withKey k) = outcomeMap (State.withKey k) (issue w s) := by
  cases hd : decode w with
  | ok i =>
    have hi : i ≠ .keyexp := fun hi => hw (by rw [eq_encode_of_decode hd, hi]; rfl)
    rw [issue_ok hd, issue_ok hd, exec_withKey hi]
  | error x => rw [issue_error hd, issue_error hd]; rfl

/-- A host write of any register but KEY, other than KEYEXP's word to CMD, commutes with a change of KEY. -/
theorem hostWrite_withKey {reg : Reg} {v : BitVec reg.width} (hcmd : HostEvent.wr reg v ≠ .wr .cmd 0x00000001#32)
    (hkey : reg ≠ .key) (k : Block) (s : State) :
    hostWrite (s.withKey k) reg v = outcomeMap (State.withKey k) (hostWrite s reg v) := by
  cases reg with
  | cmd => exact issue_withKey (fun hw => hcmd (by rw [hw])) k s
  | key => exact absurd rfl hkey
  | aadlen | dlen =>
    simp only [hostWrite, apply_ite (outcomeMap (State.withKey k))]
    rfl
  | status | keylen | noncelen | nonce | outcap | a | b | r | tag | rk => rfl

/-- What a host read of a register gives does not depend on KEY, which the host cannot read (R26). -/
theorem hostRead_withKey (k : Block) (s : State) (reg : Reg) : (s.withKey k).hostRead reg = s.hostRead reg := by
  cases reg <;> rfl

/-- Every host step but KEYEXP's word to CMD, a write of KEY and a reset commutes with a change of KEY. -/
theorem serve_withKey {ev : HostEvent} (hcmd : ev ≠ .wr .cmd 0x00000001#32) (hkey : ∀ v, ev ≠ .wr .key v)
    (hreset : ∀ d, ev ≠ .reset d) (k : Block) (s : State) :
    serve ev (s.withKey k) = outcomeMap (State.withKey k) (serve ev s) := by
  cases ev with
  | wr reg v => exact hostWrite_withKey hcmd (fun h => by subst h; exact hkey v rfl) k s
  | wrb sp off bs =>
    simp only [serve, memWrite_withKey]
    cases s.memWrite sp off bs <;> rfl
  | rd reg =>
    simp only [serve, hostRead_withKey]
    cases s.hostRead reg <;> rfl
  | rdb sp off n =>
    simp only [serve, memRead_withKey]
    cases s.memRead sp off n <;> rfl
  | reset d => exact absurd rfl (hreset d)

/-- Settles O18: the host step taken commutes with a change of KEY. -/
theorem keyIsReadByKeyexpAlone : Obligations.KeyIsReadByKeyexpAlone := by
  intro s k hcmd hkey hreset
  change step (s.withKey k) = outcomeMap (State.withKey k) (step s)
  cases hp : s.pending with
  | nil =>
    rw [step_idle hp, step_idle (s := s.withKey k) hp]
    rfl
  | cons ev rest =>
    rw [step_serve hp, step_serve (s := s.withKey k) hp]
    exact serve_withKey (fun h => hcmd rest (h ▸ hp)) (fun v h => hkey v rest (h ▸ hp))
      (fun d h => hreset d rest (h ▸ hp)) k (s.setPending rest)

/-! ### STATUS.ERR -/

/-- The error exit does not see the code that stood before, and overwrites it (R135). -/
theorem raiseIf_setErr {s : State} {c : BitVec 4} {cond : Bool} {e : Err} {o o' : Out} (h : o' = o) :
    (s.setErr c).raiseIf cond e o' = s.raiseIf cond e o :=
  h ▸ rfl

/-- The AAD operand does not see the code that stood before. -/
theorem readAad_setErr {s : State} {c : BitVec 4} {f f' : List Byte → Out} (h : ∀ bs, f' bs = f bs) :
    (s.setErr c).readAad f' = s.readAad f :=
  funext h ▸ rfl

/-- The data operand does not see the code that stood before. -/
theorem readData_setErr {s : State} {c : BitVec 4} {f f' : List Byte → Out} (h : ∀ bs, f' bs = f bs) :
    (s.setErr c).readData f' = s.readData f :=
  funext h ▸ rfl

/-- The output keeps the code, for the command's end to overwrite. -/
theorem writeData_setErr {s : State} {c : BitVec 4} {v : List Byte} {f f' : State → Out}
    (h : ∀ t, f' (t.setErr c) = f t) : (s.setErr c).writeData v f' = s.writeData v f := by
  by_cases hv : v.length ≤ s.bufcap.val
  · rw [writeData_eq (s := s.setErr c) hv, writeData_eq hv]
    exact h (s.setBuf .doutbuf (s.doutbuf.writeBytes 0 v))
  · simp [State.writeData, State.memWrite, hv]

/-- Settles O21: checks, operands and results read no code, and both ends of a command overwrite it. -/
theorem noCommandReadsErr : Obligations.NoCommandReadsErr := by
  intro i s c
  change exec i (s.setErr c) = exec i s
  cases i with
  | keyexp => exact raiseIf_setErr rfl
  | blkenc => exact raiseIf_setErr rfl
  | gfmul => rfl
  | ghash => exact readAad_setErr fun _ => readData_setErr fun _ => rfl
  | ctrxor => exact raiseIf_setErr (raiseIf_setErr (readData_setErr fun _ => writeData_setErr fun _ => rfl))
  | aeadenc =>
    exact raiseIf_setErr (raiseIf_setErr (raiseIf_setErr
      (readAad_setErr fun _ => readData_setErr fun _ => writeData_setErr fun _ => rfl)))
  | aeaddec =>
    refine raiseIf_setErr (raiseIf_setErr (raiseIf_setErr (readAad_setErr fun aad => readData_setErr fun ct => ?_)))
    simp only [setErr_rk, setErr_nonce, setErr_tag]
    cases openMessage s.rk s.nonce aad ct s.tag with
    | none => rfl
    | some pt => exact writeData_setErr fun _ => rfl

end Sys2Proof.Machine
end

section
/-!
What a host step is answered with (O4 to O7), the numbers of the registers (O10), and reset (O11 to O13).
-/

namespace Sys2Proof.Machine

/-! ### The commands of a legal state complete -/

/-- The error exit leaves a command that answers without a fault. -/
theorem raiseIf_answers {s : State} {cond : Bool} {e : Err} {o : Out} (h : ∃ t, o = .next t) :
    ∃ t, s.raiseIf cond e o = .next t := by
  cases cond with
  | true => exact ⟨s.raise e, rfl⟩
  | false => exact h

/-- While the lengths are legal GHASH folds the two fields into R (R98). -/
theorem exec_ghash_eq {s : State} (h : s.LengthsLegal) :
    exec .ghash s = .next (s.setR (gHash s.b s.aadBytes s.dataBytes)).succeed := by
  obtain ⟨haad, hdata⟩ := h
  rw [exec, execGhash, readAad_eq haad, readData_eq hdata]

/-- While the lengths are legal every range a command names exists, so every command answers a next state (R47, R48). -/
theorem exec_answers {s : State} (h : s.LengthsLegal) (i : Instr) : ∃ t, exec i s = .next t := by
  obtain ⟨haad, hdata⟩ := h
  cases i with
  | keyexp => exact raiseIf_answers ⟨_, rfl⟩
  | blkenc => exact raiseIf_answers ⟨_, rfl⟩
  | gfmul => exact ⟨_, rfl⟩
  | ghash => exact ⟨_, exec_ghash_eq ⟨haad, hdata⟩⟩
  | ctrxor =>
    refine raiseIf_answers (raiseIf_answers ?_)
    rw [readData_eq hdata, writeData_eq (by simpa using hdata)]
    exact ⟨_, rfl⟩
  | aeadenc =>
    refine raiseIf_answers (raiseIf_answers (raiseIf_answers ?_))
    rw [readAad_eq haad, readData_eq hdata, writeData_eq (by simpa using hdata)]
    exact ⟨_, rfl⟩
  | aeaddec =>
    refine raiseIf_answers (raiseIf_answers (raiseIf_answers ?_))
    rw [readAad_eq haad, readData_eq hdata]
    cases ho : openMessage s.rk s.nonce s.aadBytes s.dataBytes s.tag with
    | none => exact ⟨_, rfl⟩
    | some pt => exact ⟨_, writeData_eq (by simpa [openMessage_length ho] using hdata) _⟩

theorem issue_answers {s : State} (h : s.LengthsLegal) (w : Word) : ∃ t, issue w s = .next t := by
  cases hd : decode w with
  | ok i => exact issue_ok hd s ▸ exec_answers h i
  | error x => exact ⟨_, issue_error hd s⟩

/-! ### The host's accesses -/

/-- A host write the spec lists is answered. -/
theorem hostWrite_answers {s : State} (h : s.LengthsLegal) {reg : Reg} {v : BitVec reg.width}
    (hw : reg.hostWrites = true) (hv : reg.valueLegal s.bufcap.val v = true) : ∃ t, hostWrite s reg v = .next t := by
  cases reg with
  | cmd => exact issue_answers h v
  | aadlen => exact ⟨_, if_pos (of_decide_eq_true hv)⟩
  | dlen => exact ⟨_, if_pos (of_decide_eq_true hv)⟩
  | status | r | rk => cases hw
  | keylen | key | noncelen | nonce | outcap | a | b | tag => exact ⟨_, rfl⟩

/-- A host write the spec does not list is refused (U7, U11). -/
theorem hostWrite_refused {s : State} {reg : Reg} {v : BitVec reg.width}
    (h : (reg.hostWrites && reg.valueLegal s.bufcap.val v) = false) : ∃ e, hostWrite s reg v = .refused e := by
  cases reg with
  | aadlen => exact ⟨_, if_neg (of_decide_eq_false h)⟩
  | dlen => exact ⟨_, if_neg (of_decide_eq_false h)⟩
  | status | r | rk => exact ⟨_, rfl⟩
  | cmd | keylen | key | noncelen | nonce | outcap | a | b | tag => cases h

/-- A host read gives a value exactly where the host may read (R22). -/
theorem hostRead_isSome (s : State) (reg : Reg) : (s.hostRead reg).isSome = reg.hostReads := by
  cases reg <;> rfl

theorem serve_rd_some {s : State} {reg : Reg} {v : BitVec reg.width} (h : s.hostRead reg = some v) :
    serve (.rd reg) s = .next (s.observe (.reg reg v)) := by
  simp [serve, h]

theorem serve_rd_none {s : State} {reg : Reg} (h : s.hostRead reg = none) :
    serve (.rd reg) s = .refused (.notHostReadable reg) := by
  simp [serve, h]

theorem serve_rdb (s : State) (sp : Space) (off n : Nat) :
    serve (.rdb sp off n) s = if off + n ≤ s.bufcap.val then .next (s.observe (.bytes sp off ((s.buf sp).readBytes off n)))
      else .refused (.offsetNotBelowBufcap sp) := by
  by_cases hb : off + n ≤ s.bufcap.val <;> simp [serve, State.memRead, hb]

theorem serve_wrb (s : State) (sp : Space) (off : Nat) (bs : List Byte) :
    serve (.wrb sp off bs) s = if off + bs.length ≤ s.bufcap.val then .next (s.setBuf sp ((s.buf sp).writeBytes off bs))
      else .refused (.offsetNotBelowBufcap sp) := by
  by_cases hb : off + bs.length ≤ s.bufcap.val <;> simp [serve, State.memWrite, hb]

/-- While the lengths are legal every host step the spec lists is answered. -/
theorem serve_answers {s : State} (h : s.LengthsLegal) {ev : HostEvent} (hev : ev.wf s.bufcap.val = true) :
    ∃ t, serve ev s = .next t := by
  cases ev with
  | wr reg v =>
    obtain ⟨hw, hv⟩ := Bool.and_eq_true_iff.mp hev
    exact hostWrite_answers h hw hv
  | wrb sp off bs => exact ⟨_, (serve_wrb s sp off bs).trans (if_pos (of_decide_eq_true hev))⟩
  | rd reg =>
    obtain ⟨v, hv⟩ := Option.isSome_iff_exists.mp ((hostRead_isSome s reg).trans hev)
    exact ⟨_, serve_rd_some hv⟩
  | rdb sp off n => exact ⟨_, (serve_rdb s sp off n).trans (if_pos (of_decide_eq_true hev))⟩
  | reset d => exact ⟨_, rfl⟩

/-- In every state a host step the spec does not list is refused. -/
theorem serve_refused {s : State} {ev : HostEvent} (hev : ev.wf s.bufcap.val = false) : ∃ e, serve ev s = .refused e := by
  cases ev with
  | wr reg v => exact hostWrite_refused hev
  | wrb sp off bs => exact ⟨_, (serve_wrb s sp off bs).trans (if_neg (of_decide_eq_false hev))⟩
  | rd reg => 
    have hnone : s.hostRead reg = none := by simpa using (hostRead_isSome s reg).trans hev
    exact ⟨_, serve_rd_none hnone⟩
  | rdb sp off n => exact ⟨_, (serve_rdb s sp off n).trans (if_neg (of_decide_eq_false hev))⟩
  | reset d => cases hev

/-- Settles O5: a legal state's lengths name ranges that exist, so a listed step is answered; any other is refused. -/
theorem listedHostStepsAreAnswered : Obligations.ListedHostStepsAreAnswered := by
  intro s ev rest hp
  rw [step_serve hp]
  refine ⟨fun hs hev => ?_, fun hev => serve_refused (s := s.setPending rest) hev⟩
  obtain ⟨_, haad, hdata, _⟩ := hs
  exact serve_answers (s := s.setPending rest) ⟨haad, hdata⟩ hev

/-- The word of a command, taken from the opcode table as 32 bits, is that word. -/
theorem tableWord_encode (i : Instr) : tableWord 32 (encode i).toNat = encode i := by
  rw [tableWord, Nat.mod_eq_of_lt (encode i).isLt, BitVec.ofNat_toNat, BitVec.setWidth_eq]

/-- Settles O4: a pending word is issued, and a word that decodes runs its command. -/
theorem stepRunsTheDecodedCommand : Obligations.StepRunsTheDecodedCommand := by
  refine ⟨fun s w i rest hp hd _ => ?_, fun s i => ?_, fun s hp => step_idle hp⟩
  · rw [step_serve hp]
    exact issue_ok hd (s.setPending rest)
  · rw [step_serve (s := s.withFetchWord 32 (encode i).toNat) rfl, tableWord_encode]
    exact issue_ok (decode_encode i) s

/-- Settles O6: the pending write is served, and each register has its own arm. -/
theorem hostWriteChangesOneRegister : Obligations.HostWriteChangesOneRegister := by
  intro s rest
  refine ⟨?_, ?_, ?_, ?_, ?_, ?_, ?_, ?_, ?_, ?_⟩ <;> intro v hp <;> exact step_serve hp

/-- The fields of STATUS as the host reads it (R23). -/
theorem status_fields (s : State) : s.status.extractLsb' 0 4 = s.err ∧ s.status.getLsbD 4 = s.rkv ∧
    s.status.extractLsb' 5 27 = 0#27 := by
  unfold State.status
  refine ⟨?_, ?_, ?_⟩
  · rw [BitVec.extractLsb'_append_eq_of_add_le (by omega)]
    simp
  · rw [BitVec.getLsbD_append, BitVec.getLsbD_append]
    simp
  · rw [BitVec.extractLsb'_append_eq_of_le (by omega), BitVec.extractLsb'_append_eq_of_le (by omega)]
    simp

/-- A pending read of a register the host can read records its value and does nothing else (R54). -/
theorem step_rd_some {s : State} {reg : Reg} {rest : List HostEvent} (hp : s.pending = .rd reg :: rest)
    {v : BitVec reg.width} (h : s.hostRead reg = some v) :
    step s = .next { s with pending := rest, seen := s.seen ++ [.reg reg v] } := by
  rw [step_serve hp]
  exact serve_rd_some (s := s.setPending rest) h

/-- Settles O7: CMD and KEY have no value for the host, STATUS is its fields, every other register its contents. -/
theorem hostReadsGiveTheRegister : Obligations.HostReadsGiveTheRegister := by
  intro s reg rest hp
  cases reg with
  | cmd | key => exact step_serve hp
  | status =>
    obtain ⟨herr, hrkv, hzero⟩ := status_fields s
    exact ⟨s.status, herr, hrkv, hzero, step_rd_some hp rfl⟩
  | keylen | noncelen | nonce | aadlen | dlen | outcap | a | b | r | tag | rk => exact step_rd_some hp rfl

/-! ### Register numbers -/

theorem ofNumber_number (reg : Reg) : Reg.ofNumber reg.number = some reg := by
  cases reg with
  | rk i => simp [Reg.number, Nat.add_comm 13, Reg.ofNumber]
  | cmd | status | keylen | key | noncelen | nonce | aadlen | dlen | outcap | a | b | r | tag => rfl

theorem number_of_ofNumber {n : Nat} {reg : Reg} (h : Reg.ofNumber n = some reg) : reg.number = n := by
  unfold Reg.ofNumber at h
  split at h
  case h_14 k =>
    split at h
    · cases h
      exact Nat.add_comm 13 k
    · cases h
  all_goals cases h; rfl

/-- The numbers from 13 on are those of RK (R22). -/
theorem ofNumber_add_thirteen (k : Nat) :
    Reg.ofNumber (k + 13) = if h : k < 32 then some (.rk ⟨k, h⟩) else none := rfl

/-- Settles O10: number and name are inverse to each other, and RK ends the table at 44. -/
theorem registerNumbersAreTheTable : Obligations.RegisterNumbersAreTheTable := by
  refine ⟨by simp [Reg.number], fun n reg => ⟨number_of_ofNumber, fun h => h ▸ ofNumber_number reg⟩,
    fun n hn => ?_, fun n hn => ?_⟩
  · obtain ⟨k, rfl⟩ := Nat.exists_eq_add_of_le' (show 13 ≤ n by omega)
    rw [ofNumber_add_thirteen, dif_neg (by omega)]
  · by_cases h : 13 ≤ n
    · obtain ⟨k, rfl⟩ := Nat.exists_eq_add_of_le' h
      exact ⟨_, (ofNumber_add_thirteen k).trans (dif_pos (by omega))⟩
    · have hn' : n < 13 := by omega
      interval_cases n <;> exact ⟨_, rfl⟩

/-! ### Reset -/

/-- Settles O11: the reset event leaves zeros, RESET_DATA, and buffers built from RESET_DATA. -/
theorem resetLeavesZeroLengthsAndResetData : Obligations.ResetLeavesZeroLengthsAndResetData := by
  intro s d rest hp
  have hstatus : ((s.setPending rest).resetEvent d).status = 0#32 := by simp [State.status]
  refine ⟨(s.setPending rest).resetEvent d, step_serve hp, hstatus, rfl, rfl, rfl, rfl, rfl, rfl, rfl, rfl, rfl, rfl, rfl, rfl,
    fun k hk => ?_, rfl, rfl, rfl⟩
  simp [read_ofBytes, hk]

/-- Settles O13: the lengths are zero, the buffers are built canonical, and RKV is 0. -/
theorem resetStateIsLegal : Obligations.ResetStateIsLegal :=
  ⟨fun cap d => ⟨legal_resetWith cap d, fun hv => absurd hv (by simp [State.resetWith])⟩, rfl⟩

/-- Without a schedule the four commands that use one raise NoKeySchedule (R133). -/
theorem exec_noKeySchedule {i : Instr} (hi : i = .blkenc ∨ i = .ctrxor ∨ i = .aeadenc ∨ i = .aeaddec) {s : State}
    (h : s.rkv = false) : exec i s = .next (s.raise .noKeySchedule) := by
  have hc : (!s.rkv) = true := by rw [h]; rfl
  obtain rfl | rfl | rfl | rfl := hi <;> exact raiseIf_pos hc

theorem fieldBit_zero (i : Nat) : fieldBit 0#128 i = false := by
  simp [fieldBit, blockByte]

/-- The product with zero: no field bit of the left operand is set (R90). -/
theorem gfMul_zero_left (y : Block) : gfMul 0#128 y = 0#128 := by
  have hfold (is : List Nat) (v : Block) : (is.foldl (gfStep 0#128) (0#128, v)).1 = 0#128 := by
    induction is generalizing v with
    | nil => rfl
    | cons i is ih =>
      simpa [gfStep, fieldBit_zero] using ih (shiftReduce v)
  exact hfold _ y

/-- With no AAD and no data the accumulator is zero: the length block is zero (R99). -/
theorem gHash_nil (h : Block) : gHash h [] [] = 0#128 := by
  have hlen : chunks (blockBytes (lenBlock 0 0)) = [blockBytes (lenBlock 0 0)] := rfl
  have hpad : pad (blockBytes (lenBlock 0 0)) = 0#128 := by decide
  simp [gHash, fold, hlen, hpad, gfMul_zero_left]

/-- Settles O12: after reset RKV and KEYLEN are 0, GFMUL reads neither, and GHASH folds two empty fields. -/
theorem firstCommandAfterReset : Obligations.FirstCommandAfterReset := by
  intro cap d
  refine ⟨fun i hi => exec_noKeySchedule hi rfl, rfl, rfl, ?_⟩
  have hzero : gHash (State.resetWith cap d).b (State.resetWith cap d).aadBytes (State.resetWith cap d).dataBytes = 0#128 :=
    gHash_nil d.b
  rw [exec_ghash_eq ⟨Nat.zero_le _, Nat.zero_le _⟩, hzero]
  rfl

end Sys2Proof.Machine
end

section
/-!
The statements of 20_memory.md: host accesses to a byte range of a buffer (O8, O9), commands that name a range above BUFCAP
(O24), and the one-bit right shift of a block seen byte by byte (O34).
-/

namespace Sys2Proof.Machine

/-! ### Buffer ranges -/

/-- Taking a host step off the list leaves every buffer. -/
@[simp] theorem buf_setPending (s : State) (evs : List HostEvent) (sp : Space) :
    (s.setPending evs).buf sp = s.buf sp := by
  cases sp <;> rfl

/-- A buffer write leaves every register and the host's record (R39). -/
theorem setBuf_frame (s : State) (sp : Space) (m : Memory) :
    s.setBuf sp m = { s with
      aadbuf := (s.setBuf sp m).aadbuf, dinbuf := (s.setBuf sp m).dinbuf, doutbuf := (s.setBuf sp m).doutbuf } := by
  cases sp <;> rfl

/-- Settles O8: the pending write replaces one buffer, whose bytes `read_writeBytes` gives. -/
theorem bufferWriteSetsTheseBytes : Obligations.BufferWriteSetsTheseBytes := by
  intro s sp off bs rest hp hwf hb
  have hstep : step s = .next ((s.setPending rest).setBuf sp ((s.buf sp).writeBytes off bs)) := by
    rw [step_serve hp, serve_wrb, buf_setPending]
    exact if_pos hb
  refine ⟨_, hstep, fun k => ?_, fun sp' hne => ?_, setBuf_frame (s.setPending rest) sp _⟩
  · rw [buf_setBuf_same, read_writeBytes hwf]
  · rw [buf_setBuf_other _ hne, buf_setPending]

/-- Settles O9: the pending read records `readBytes` of the range. -/
theorem bufferReadGivesTheseBytes : Obligations.BufferReadGivesTheseBytes := by
  intro s sp off n rest hp hb
  refine ⟨(s.buf sp).readBytes off n, readBytes_length _ off n, fun k hk => ?_, ?_⟩
  · rw [List.getD_eq_getElem _ _ (by simpa using hk), getElem_readBytes]
  · rw [step_serve hp, serve_rdb, buf_setPending]
    exact if_pos hb

/-! ### Ranges that do not exist -/

/-- The AAD operand where its range does not exist. -/
theorem readAad_fault {s : State} (h : s.bufcap.val < s.aadlen.toNat) (k : List Byte → Out) :
    s.readAad k = .fault (.noSuchBufferRange .aadbuf) := by
  simp [State.readAad, State.memRead, Nat.not_le.mpr h]

/-- The data operand where its range does not exist. -/
theorem readData_fault {s : State} (h : s.bufcap.val < s.dlen.toNat) (k : List Byte → Out) :
    s.readData k = .fault (.noSuchBufferRange .dinbuf) := by
  simp [State.readData, State.memRead, Nat.not_le.mpr h]

/-- With a schedule and an OUTCAP that suffices, CTRXOR passes its register checks (R106, R137). -/
theorem exec_ctrxor_checked {s : State} (hrkv : s.rkv = true) (hcap : s.dlen ≤ s.outcap) :
    exec .ctrxor s = s.readData fun data => s.writeData (ctrXor s.rk s.a data) fun t => .next t.succeed := by
  rw [exec, execCtrxor, raiseIf_neg (by simp [hrkv]), raiseIf_neg (by simpa using hcap)]

/-- With a schedule, a nonce of 12 bytes and an OUTCAP that suffices, AEADENC and AEADDEC pass their register checks, and go
on with both operands (R116, R119, R137). -/
theorem exec_aead_checked {i : Instr} (hi : i = .aeadenc ∨ i = .aeaddec) {s : State} (hrkv : s.rkv = true)
    (hnonce : s.noncelen = 12#32) (hcap : s.dlen ≤ s.outcap) :
    ∃ k : List Byte → List Byte → Out, exec i s = s.readAad fun aad => s.readData (k aad) := by
  have hchecks (o : Out) : (s.raiseIf (!s.rkv) .noKeySchedule <|
      s.raiseIf (decide (s.noncelen ≠ Config.nonceBytes)) .invalidNonceLength <|
      s.raiseIf (decide (s.outcap < s.dlen)) .bufferLengthMismatch o) = o := by
    rw [raiseIf_neg (by simp [hrkv]), raiseIf_neg (by simp [hnonce, Config.nonceBytes]), raiseIf_neg (by simpa using hcap)]
  obtain rfl | rfl := hi <;> exact ⟨_, hchecks _⟩

/-- Settles O24: past the register checks the first operand whose range does not exist faults. -/
theorem lengthAboveBufcapFaults : Obligations.LengthAboveBufcapFaults := by
  intro s
  refine ⟨fun haad => readAad_fault haad _, fun haad hdata => ?_, fun hrkv hcap hdata => ?_,
    fun i hi hrkv hnonce hcap => ?_⟩
  · exact (readAad_eq haad _).trans (readData_fault hdata _)
  · rw [exec_ctrxor_checked hrkv hcap, readData_fault hdata]
  · obtain ⟨k, hk⟩ := exec_aead_checked hi hrkv hnonce hcap
    rw [hk]
    exact ⟨fun haad => readAad_fault haad _, fun haad hdata => (readAad_eq haad _).trans (readData_fault hdata _)⟩

/-! ### The shift of a block -/

/-- Bit `j` of byte `k` of a block, byte 0 the most significant (R49). -/
theorem getElem_blockByte (b : Block) (k : Nat) {j : Nat} (hj : j < 8) :
    (blockByte b k)[j] = b.getLsbD (8 * (15 - k) + j) := by
  simp [blockByte]

theorem blockByte_xor (a b : Block) (k : Nat) : blockByte (a ^^^ b) k = blockByte a k ^^^ blockByte b k :=
  BitVec.extractLsb'_xor

/-- Bit 1 + j of byte `k`, which a shift by one moves to bit j. -/
theorem getLsbD_blockByte_one_add (v : Block) (k : Nat) {j : Nat} (hj : j < 7) :
    (blockByte v k).getLsbD (1 + j) = v.getLsbD (1 + (8 * (15 - k) + j)) := by
  rw [BitVec.getLsbD_eq_getElem (by omega), getElem_blockByte, Nat.add_left_comm]

/-- The constant of the reduction is 0xE1 in byte 0 and zero in every other byte (R87). -/
theorem blockByte_reduction {k : Nat} (h1 : 1 ≤ k) (h16 : k < 16) : blockByte reduction k = 0#8 := by
  interval_cases k <;> rfl

/-- The bit that leaves byte k - 1 on the right enters byte k on the left (R51). -/
theorem blockByte_ushiftRight_one (v : Block) {k : Nat} (h1 : 1 ≤ k) (h16 : k < 16) :
    blockByte (v >>> 1) k = (blockByte v k >>> 1) ||| ((blockByte v (k - 1) &&& 0x01#8) <<< 7) := by
  apply BitVec.eq_of_getElem_eq
  intro j hj
  by_cases h7 : j = 7
  · subst h7
    have hidx : 1 + (8 * (15 - k) + 7) = 8 * (15 - (k - 1)) := by omega
    simp [getElem_blockByte, hidx]
  · have hlt : j < 7 := by omega
    simp [getElem_blockByte, getLsbD_blockByte_one_add v k hlt, hlt]

/-- Nothing enters byte 0 (R51). -/
theorem blockByte_ushiftRight_one_zero (v : Block) : blockByte (v >>> 1) 0 = blockByte v 0 >>> 1 := by
  apply BitVec.eq_of_getElem_eq
  intro j hj
  by_cases h7 : j = 7
  · subst h7
    simp [getElem_blockByte]
  · have hlt : j < 7 := by omega
    simp [getElem_blockByte, getLsbD_blockByte_one_add v 0 hlt]

/-- Bit 0 of a byte, as a mask and as a bit. -/
theorem and_one_eq_one_iff (b : Byte) : b &&& 0x01#8 = 0x01#8 ↔ b.getLsbD 0 = true := by
  rw [BitVec.and_one_eq_setWidth_ofBool_getLsbD]
  cases b.getLsbD 0 <;> decide

/-- Settles O34: the shift moves the bits between the bytes, and the reduction touches byte 0 alone. -/
theorem shiftCrossesTheBytes : Obligations.ShiftCrossesTheBytes := by
  intro v
  simp only [and_one_eq_one_iff]
  by_cases hout : (blockByte v 15).getLsbD 0 = true
  · rw [shiftReduce, if_pos hout, if_pos hout]
    refine ⟨fun k h1 h16 => ?_, ?_⟩
    · rw [blockByte_xor, blockByte_reduction h1 h16, BitVec.xor_zero, blockByte_ushiftRight_one v h1 h16]
    · rw [blockByte_xor, blockByte_ushiftRight_one_zero]
      rfl
  · rw [shiftReduce, if_neg hout, if_neg hout]
    exact ⟨fun k h1 h16 => blockByte_ushiftRight_one v h1 h16, blockByte_ushiftRight_one_zero v⟩

end Sys2Proof.Machine
end

section
/-!
The statements of 30_encoding.md: each command is one word (O1, O2), a word written to CMD runs its command or is illegal (O3),
and AEADENC gives what the primitive commands give one after the other (O49).
-/

namespace Sys2Proof.Machine

/-! ### Command words -/

/-- Decoding and encoding agree in both directions (R183). -/
theorem decode_eq_ok_iff {w : Word} {i : Instr} : decode w = .ok i ↔ w = encode i :=
  ⟨eq_encode_of_decode, fun h => h ▸ decode_encode i⟩

/-- Settles O1: `encode` gives the words of the table. -/
theorem eachCommandIsOneWord : Obligations.EachCommandIsOneWord :=
  fun _ => ⟨fun _ _ => decode_eq_ok_iff, decode_eq_ok_iff, decode_eq_ok_iff, decode_eq_ok_iff, decode_eq_ok_iff,
    decode_eq_ok_iff, decode_eq_ok_iff, decode_eq_ok_iff⟩

/-- Settles O2: the seven words are those `encode` gives, and the five others have no command's fields. -/
theorem wordsOfTheTableDecode : Obligations.WordsOfTheTableDecode :=
  ⟨decode_encode .keyexp, decode_encode .blkenc, decode_encode .gfmul, decode_encode .ghash, decode_encode .ctrxor,
    decode_encode .aeadenc, decode_encode .aeaddec, rfl, rfl, rfl, rfl, rfl⟩

@[simp] theorem zeroField_encode (i : Instr) : zeroField (encode i) = 0#24 := by
  cases i <;> rfl

@[simp] theorem opcodeField_encode (i : Instr) : opcodeField (encode i) = i.opcode := by
  cases i <;> rfl

/-- The opcodes in use are 1 to 7 (R183, R185). -/
theorem opcode_range (i : Instr) : 1 ≤ i.opcode.toNat ∧ i.opcode.toNat ≤ 7 := by
  cases i <;> decide

/-- A word with a bit of its zero field set, or with an unused opcode, decodes to no command (R182, R185). -/
theorem decode_error_of_illegal {w : Word}
    (h : zeroField w ≠ 0#24 ∨ opcodeField w = 0#8 ∨ 7 < (opcodeField w).toNat) : ∃ x, decode w = .error x := by
  cases hd : decode w with
  | error x => exact ⟨x, rfl⟩
  | ok i =>
    obtain rfl := eq_encode_of_decode hd
    obtain ⟨hlo, hhi⟩ := opcode_range i
    rw [zeroField_encode, opcodeField_encode] at h
    obtain hz | hop | hop := h
    · exact absurd rfl hz
    · rw [hop] at hlo
      exact absurd hlo (by decide)
    · omega

/-- Settles O3: the pending word is issued, and decodes to no command or to the command whose word it is. -/
theorem everyWordRunsOrIsIllegal : Obligations.EveryWordRunsOrIsIllegal := by
  intro s w rest hp
  rw [step_serve hp]
  refine ⟨fun hw => ?_, fun i hi => issue_ok (decode_eq_ok_iff.mpr hi) (s.setPending rest)⟩
  obtain ⟨x, hx⟩ := decode_error_of_illegal hw
  exact issue_error hx (s.setPending rest)

/-! ### Bytes written and read back -/

/-- Two buffers that agree on a range give the same bytes (R47). -/
theorem readBytes_congr {m m' : Memory} {n : Nat} (h : ∀ k, k < n → m.read k = m'.read k) :
    m.readBytes 0 n = m'.readBytes 0 n :=
  List.map_congr_left fun k hk => by
    rw [Nat.zero_add]
    exact h k (List.mem_range.mp hk)

/-- A byte string written is read back (R47, R48). -/
theorem readBytes_writeBytes {m : Memory} (h : m.wf = true) (bs : List Byte) :
    (m.writeBytes 0 bs).readBytes 0 bs.length = bs := by
  refine List.ext_getElem (by simp) fun k _ hk => ?_
  rw [getElem_readBytes, read_writeBytes h, if_pos (by omega)]
  simp [hk]

/-! ### The commands that complete -/

/-- With a schedule BLKENC writes R (R80). -/
theorem exec_blkenc_eq {s : State} (hrkv : s.rkv = true) :
    exec .blkenc s = .next (s.setR (blockE s.rk s.a)).succeed :=
  raiseIf_neg (by simp [hrkv])

/-- Past its register checks, and with a range that exists, CTRXOR writes DOUTBUF (R106). -/
theorem exec_ctrxor_eq {s : State} (hrkv : s.rkv = true) (hcap : s.dlen ≤ s.outcap) (hdata : s.dlen.toNat ≤ s.bufcap.val) :
    exec .ctrxor s = .next (s.withOutput (ctrXor s.rk s.a s.dataBytes)).succeed := by
  rw [exec_ctrxor_checked hrkv hcap, readData_eq hdata, writeData_eq (by simpa using hdata)]
  rfl

/-- An error leaves a code other than that of success (R131). -/
theorem raise_err_ne_zero (s : State) (e : Err) : (s.raise e).err ≠ 0#4 := by
  intro h
  have hcode := (code_range e).1
  rw [← raise_err s e, h] at hcode
  exact absurd hcode (by decide)

/-- AEADENC ends with ERR = 0 only after its register checks, and has then written the sealed message (R116). -/
theorem exec_aeadenc_success {s t : State} (h : exec .aeadenc s = .next t) (herr : t.err = 0#4) :
    s.rkv = true ∧ s.noncelen = 12#32 ∧ s.dlen ≤ s.outcap ∧ s.LengthsLegal ∧
      t = ((s.withOutput (sealMessage s.rk s.nonce s.aadBytes s.dataBytes).1).setTag
        (sealMessage s.rk s.nonce s.aadBytes s.dataBytes).2).succeed := by
  obtain ⟨_, rfl⟩ | ⟨_, _, rfl⟩ | ⟨_, _, _, rfl⟩ | ⟨hrkv, hnonce, hcap, hlen, _, ht⟩ := execAeadenc_next h
  · exact absurd herr (raise_err_ne_zero s _)
  · exact absurd herr (raise_err_ne_zero s _)
  · exact absurd herr (raise_err_ne_zero s _)
  · exact ⟨hrkv, hnonce, BitVec.not_lt.mp hcap, hlen, ht⟩

/-! ### AEADENC from the primitives -/

/-- The first counter of the message is NONCE || 2 (R113, R115). -/
theorem inc32_j0 (nonce : Nonce) : inc32 (j0 nonce) = nonce ++ 2#32 := by
  rw [inc32, j0, counterHead_append, counterCount_append]
  rfl

/-- The sealed message in the primitives' terms: the ciphertext is the pass from NONCE || 2, and the tag is the GHash of the AAD and
that ciphertext under E(RK, 0) xor E(RK, NONCE || 1) (R112 to R115). -/
theorem sealMessage_eq (rk : Vector Word 32) (nonce : Nonce) (aad pt : List Byte) :
    sealMessage rk nonce aad pt = (ctrXor rk (nonce ++ 2#32) pt,
      gHash (blockE rk 0#128) aad (ctrXor rk (nonce ++ 2#32) pt) ^^^ blockE rk (nonce ++ 1#32)) := by
  rw [sealMessage, inc32_j0]
  rfl

/-- Settles O49: each command's result by its own rule; GHASH reads back from DINBUF the ciphertext CTRXOR wrote. -/
theorem aeadencIsComposedOfPrimitives : Obligations.AeadencIsComposedOfPrimitives := by
  intro s t t1 t2 t3 t4 m hs h herr h1 h2 hm h3 h4
  obtain ⟨hrkv, _, hcap, ⟨haad, hdata⟩, rfl⟩ := exec_aeadenc_success h herr
  obtain ⟨_, _, _, _, _, hwf, _⟩ := hs
  cases (exec_blkenc_eq (s := { s with a := 0#128 }) hrkv).symm.trans h1
  cases (exec_ctrxor_eq (s := { s with a := s.nonce ++ 2#32 }) hrkv hcap hdata).symm.trans h2
  cases (exec_ghash_eq (s := { s with b := blockE s.rk 0#128, dinbuf := m }) ⟨haad, hdata⟩).symm.trans h3
  cases (exec_blkenc_eq (s := { s with a := s.nonce ++ 1#32 }) hrkv).symm.trans h4
  have hct : m.readBytes 0 s.dlen.toNat = ctrXor s.rk (s.nonce ++ 2#32) s.dataBytes := by
    have hback := readBytes_writeBytes hwf (ctrXor s.rk (s.nonce ++ 2#32) s.dataBytes)
    rw [ctrXor_length, dataBytes_length] at hback
    exact (readBytes_congr hm).trans hback
  rw [sealMessage_eq]
  exact ⟨congrArg (fun ct => gHash (blockE s.rk 0#128) s.aadBytes ct ^^^ blockE s.rk (s.nonce ++ 1#32)) hct.symm, rfl⟩

end Sys2Proof.Machine
end

section
/-!
The statement of 40_constant_tables.md (O25): S is R62's table row by row and a permutation of the bytes, and CK is the closed
form of R66.
-/

namespace Sys2Proof.Machine

/-! ### The table S -/

/-- The rows of R62's table are the values of S at the indices 16r to 16r + 15. -/
theorem sRows_eq_map_sBox : Sys2Proof.Spec.sRows =
    (List.range 16).map fun r => (List.range 16).map fun c => sBox (BitVec.ofNat 8 (16 * r + c)) := by
  simp [Sys2Proof.Spec.sRows, sBox, sBoxBytes, List.range, List.range.loop]

theorem sBox_eq_sRows {r c : Nat} (hr : r < 16) (hc : c < 16) :
    sBox (BitVec.ofNat 8 (16 * r + c)) = (Sys2Proof.Spec.sRows.getD r []).getD c 0x00#8 := by
  simp [sRows_eq_map_sBox, hr, hc]

/-- The numbers `f a` for the `a` of a list, or-ed together. -/
def orAll {α : Type} (f : α → Nat) (l : List α) : Nat := l.foldr (fun a m => f a ||| m) 0

theorem testBit_orAll {α : Type} (f : α → Nat) (l : List α) (n : Nat) :
    (orAll f l).testBit n = true ↔ ∃ a ∈ l, (f a).testBit n = true := by
  induction l with
  | nil => simp [orAll]
  | cons a l ih => simpa [orAll] using or_congr_right ih

/-- With bit b set for each entry b of R62's table, all of the bits 0 to 255 are set. -/
theorem orAll_sRows : orAll (orAll fun b : Byte => 2 ^ b.toNat) Sys2Proof.Spec.sRows = 2 ^ 256 - 1 := by decide

/-- Each byte stands in R62's table (R63). -/
theorem exists_row_mem (b : Byte) : ∃ row ∈ Sys2Proof.Spec.sRows, b ∈ row := by
  have hbit : (orAll (orAll fun b : Byte => 2 ^ b.toNat) Sys2Proof.Spec.sRows).testBit b.toNat = true := by
    rw [orAll_sRows, Nat.testBit_two_pow_sub_one, decide_eq_true b.isLt]
  obtain ⟨row, hrow, hbit⟩ := (testBit_orAll _ _ _).mp hbit
  obtain ⟨a, ha, hbit⟩ := (testBit_orAll _ _ _).mp hbit
  rw [Nat.testBit_two_pow, decide_eq_true_iff] at hbit
  exact ⟨row, hrow, BitVec.eq_of_toNat_eq hbit ▸ ha⟩

theorem sBox_surjective : Function.Surjective sBox := by
  intro b
  obtain ⟨row, hrow, hb⟩ := exists_row_mem b
  rw [sRows_eq_map_sBox] at hrow
  obtain ⟨r, _, rfl⟩ := List.mem_map.mp hrow
  obtain ⟨c, _, hc⟩ := List.mem_map.mp hb
  exact ⟨_, hc⟩

/-- S takes each of the 256 byte values, so it takes none twice (R63). -/
theorem sBox_bijective : Function.Bijective sBox :=
  sBox_surjective.bijective_of_finite

/-- The ten values of V7. -/
theorem sBox_spot_values :
    sBox 0x00#8 = 0xd6#8 ∧ sBox 0x01#8 = 0x90#8 ∧ sBox 0x0f#8 = 0x05#8 ∧ sBox 0x10#8 = 0x2b#8 ∧ sBox 0x71#8 = 0x00#8 ∧
      sBox 0x7f#8 = 0x9e#8 ∧ sBox 0x80#8 = 0xea#8 ∧ sBox 0xd6#8 = 0x7b#8 ∧ sBox 0xef#8 = 0x84#8 ∧ sBox 0xff#8 = 0x48#8 := by
  simp [sBox, sBoxBytes]

/-! ### The constants CK -/

/-- CK is the closed form of R66, word by word. -/
theorem ckTable_eq_map_ckAt : ckTable = (List.range 32).map Sys2Proof.Spec.ckAt := rfl

theorem ckTable_getD {i : Nat} (hi : i < 32) : ckTable.getD i 0#32 = Sys2Proof.Spec.ckAt i := by
  simp [ckTable_eq_map_ckAt, hi]

/-- Settles O25: S is R62's rows, in which every byte stands; CK is the list of R66's words. -/
theorem tablesAreThoseOfTheSpec : Obligations.TablesAreThoseOfTheSpec :=
  ⟨fun _ _ => sBox_eq_sRows, sBox_bijective, sBox_spot_values, ⟨rfl, rfl, rfl, rfl⟩, rfl, fun _ => ckTable_getD⟩

end Sys2Proof.Machine
end

section
/-!
The statements of 41_key_schedule.md: L and Lk are linear (O27), and the key schedule is the sequence k of R71's second form,
which KEYEXP loads (O28) and the pseudocode of R71 computes in place (O29).
-/

namespace Sys2Proof.Machine

/-! ### The linear layers -/

theorem rotateLeft_xor (a b : Word) (n : Nat) : (a ^^^ b).rotateLeft n = a.rotateLeft n ^^^ b.rotateLeft n := by
  ext i hi
  simp only [BitVec.getElem_rotateLeft, BitVec.getElem_xor]
  split <;> rfl

theorem linearL_xor (a b : Word) : linearL (a ^^^ b) = linearL a ^^^ linearL b := by
  simp only [linearL, rotateLeft_xor]
  ac_rfl

theorem linearLk_xor (a b : Word) : linearLk (a ^^^ b) = linearLk a ^^^ linearLk b := by
  simp only [linearLk, rotateLeft_xor]
  ac_rfl

/-- Settles O27: rotation commutes with xor, and xor with itself. -/
theorem linearLayersAreLinear : Obligations.LinearLayersAreLinear :=
  ⟨fun _ => rfl, linearL_xor, rfl, fun _ => rfl, linearLk_xor, rfl⟩

/-! ### The sequence k -/

/-- The words k[i] to k[i+3] of the sequence that starts with the four words `k` (R71, second form). -/
def scheduleWindow (k : Quad) : Nat → Quad
  | 0 => k
  | i + 1 =>
    let x := scheduleWindow k i
    ⟨x.w1, x.w2, x.w3, subkey x (Sys2Proof.Spec.ckAt i)⟩

/-- The word k[i] of that sequence. -/
def scheduleWord (k : Quad) (i : Nat) : Word := (scheduleWindow k i).w0

/-- R71's recurrence. -/
theorem scheduleWord_add_four (k : Quad) (i : Nat) :
    scheduleWord k (i + 4) = scheduleWord k i ^^^ Sys2Proof.Spec.keyT
      (scheduleWord k (i + 1) ^^^ scheduleWord k (i + 2) ^^^ scheduleWord k (i + 3) ^^^ Sys2Proof.Spec.ckAt i) := rfl

/-- The sequence starts with the key words xor FK (R68). -/
theorem scheduleWord_keyWords (key : Block) {j : Nat} (hj : j < 4) :
    scheduleWord (keyWords key) j = Sys2Proof.Spec.wordAt key j ^^^ Sys2Proof.Spec.fkAt j := by
  interval_cases j <;> rfl

/-- From the window at i on, each constant CK[m] gives the subkey k[m+4]. -/
theorem subkeys_scheduleWindow (k : Quad) (i n : Nat) :
    subkeys ((List.range' i n).map Sys2Proof.Spec.ckAt) (scheduleWindow k i) =
      (List.range' i n).map fun m => scheduleWord k (m + 4) := by
  induction n generalizing i with
  | zero => rfl
  | succ n ih => exact congrArg (scheduleWord k (i + 4) :: ·) (ih (i + 1))

/-- The 32 subkeys are k[4] to k[35] (R71, second form). -/
theorem toList_keyExpand (key : Block) :
    (keyExpand key).toList = (List.range 32).map fun i => scheduleWord (keyWords key) (i + 4) := by
  have h := subkeys_scheduleWindow (keyWords key) 0 32
  rw [← List.range_eq_range', ← ckTable_eq_map_ckAt] at h
  exact h

theorem getElem_keyExpand (key : Block) {i : Nat} (hi : i < 32) :
    (keyExpand key)[i] = scheduleWord (keyWords key) (i + 4) := by
  rw [← Vector.getElem_toList (by simpa using hi)]
  simp [toList_keyExpand]

/-! ### The command -/

/-- With a key of 16 bytes KEYEXP loads its schedule (R72). -/
theorem exec_keyexp_eq {s : State} (hlen : s.keylen = 16#32) :
    exec .keyexp s = .next (s.loadSchedule (keyExpand s.key)).succeed :=
  raiseIf_neg (by simp [hlen, Config.keyBytes])

/-- With any other KEYLEN it raises InvalidKeyLength (R72). -/
theorem exec_keyexp_invalidKeyLength {s : State} (hlen : s.keylen ≠ 16#32) :
    exec .keyexp s = .next (s.raise .invalidKeyLength) :=
  raiseIf_pos (decide_eq_true hlen)

/-- Settles O28: the subkeys KEYEXP loads are the words of the sequence from k[4] on. -/
theorem keyexpLoadsTheSchedule : Obligations.KeyexpLoadsTheSchedule :=
  ⟨decode_encode .keyexp, fun s => ⟨fun hlen => ⟨keyExpand s.key, scheduleWord (keyWords s.key), exec_keyexp_eq hlen,
    fun _ => scheduleWord_keyWords s.key, fun i _ => scheduleWord_add_four _ i, fun i => getElem_keyExpand s.key i.isLt⟩,
    exec_keyexp_invalidKeyLength⟩⟩

/-! ### The pseudocode that stores the words at index m mod 4 -/

/-- At the start of round i the four words are k[i] to k[i+3], with k[m] at index m mod 4 (R71). -/
def HoldsCyclically (k : Quad) (i : Nat) (v : Vector Word 4) : Prop :=
  ∀ j, j < 4 → v[(i + j) % 4]'(Nat.mod_lt _ (by decide)) = scheduleWord k (i + j)

/-- The words R71's pseudocode starts from are k[0] to k[3]. -/
theorem holdsCyclically_zero (k : Quad) : HoldsCyclically k 0 #v[k.w0, k.w1, k.w2, k.w3] := by
  intro j hj
  interval_cases j <;> rfl

/-- k[i+4] takes the place of k[i]. -/
theorem HoldsCyclically.set {k : Quad} {i : Nat} {v : Vector Word 4} (h : HoldsCyclically k i v) :
    HoldsCyclically k (i + 1) (v.set (i % 4) (scheduleWord k (i + 4)) (Nat.mod_lt _ (by decide))) := by
  intro j hj
  rw [Vector.getElem_set]
  by_cases h3 : j = 3
  · subst h3
    rw [if_pos (by omega)]
  · rw [if_neg (by omega)]
    simpa only [Nat.add_assoc, Nat.add_comm 1 j] using h (j + 1) (by omega)

/-- Round i of the pseudocode replaces k[i] by k[i+4] and appends it to the subkeys. -/
theorem cyclicRound_eq {k : Quad} {i : Nat} {v : Vector Word 4} (h : HoldsCyclically k i v) (out : List Word) :
    Sys2Proof.Spec.cyclicRound (v, out) i =
      (v.set (i % 4) (scheduleWord k (i + 4)) (Nat.mod_lt _ (by decide)), out ++ [scheduleWord k (i + 4)]) := by
  have h0 : v[i % 4]'(Nat.mod_lt _ (by decide)) = scheduleWord k i := h 0 (by decide)
  simp only [Sys2Proof.Spec.cyclicRound, h0, h 1 (by decide), h 2 (by decide), h 3 (by decide), scheduleWord_add_four]

/-- After n rounds the pseudocode has stored k[n] to k[n+3] and given k[4] to k[n+3]. -/
theorem foldl_cyclicRound (k : Quad) (n : Nat) :
    ∃ v, HoldsCyclically k n v ∧
      (List.range n).foldl Sys2Proof.Spec.cyclicRound (#v[k.w0, k.w1, k.w2, k.w3], []) =
        (v, (List.range n).map fun i => scheduleWord k (i + 4)) := by
  induction n with
  | zero => exact ⟨_, holdsCyclically_zero k, rfl⟩
  | succ n ih =>
    obtain ⟨v, hv, hfold⟩ := ih
    refine ⟨_, hv.set, ?_⟩
    rw [List.range_succ, List.foldl_append, List.map_append, hfold]
    exact cyclicRound_eq hv _

/-- Settles O29: by the invariant `HoldsCyclically` the pseudocode gives the words of the sequence from k[4] on. -/
theorem keyScheduleIsTheCyclicPseudocode : Obligations.KeyScheduleIsTheCyclicPseudocode := by
  intro key
  obtain ⟨v, _, hfold⟩ := foldl_cyclicRound (keyWords key) 32
  rw [toList_keyExpand]
  exact (congrArg Prod.snd hfold).symm

end Sys2Proof.Machine
end

section
/-!
The statements of 42_block_cipher.md: tau is byte-wise and a bijection (O26), the block transform is a bijection for fixed round
keys (O31), and BLKENC writes R with the last four words of the sequence of R79 (O30).
-/

namespace Sys2Proof.Machine

/-! ### Four bytes in a word, four words in a block -/

/-- The four parts of equal width that make up a bit vector. -/
theorem append_four_extractLsb' {w : Nat} (x : BitVec (w + w + w + w)) :
    x.extractLsb' (w + w + w) w ++ x.extractLsb' (w + w) w ++ x.extractLsb' w w ++ x.extractLsb' 0 w = x := by
  simp [BitVec.extractLsb'_append_extractLsb'_eq_extractLsb']

theorem extractLsb'_append_four {w : Nat} (a b c d : BitVec w) :
    (a ++ b ++ c ++ d).extractLsb' (w + w + w) w = a ∧ (a ++ b ++ c ++ d).extractLsb' (w + w) w = b ∧
      (a ++ b ++ c ++ d).extractLsb' w w = c ∧ (a ++ b ++ c ++ d).extractLsb' 0 w = d := by
  simp [BitVec.extractLsb'_append_eq_of_le, BitVec.extractLsb'_append_eq_right]

theorem be32_wordByte (w : Word) : be32 (wordByte w 0) (wordByte w 1) (wordByte w 2) (wordByte w 3) = w :=
  append_four_extractLsb' (w := 8) w

theorem wordByte_be32 (b0 b1 b2 b3 : Byte) :
    wordByte (be32 b0 b1 b2 b3) 0 = b0 ∧ wordByte (be32 b0 b1 b2 b3) 1 = b1 ∧
      wordByte (be32 b0 b1 b2 b3) 2 = b2 ∧ wordByte (be32 b0 b1 b2 b3) 3 = b3 :=
  extractLsb'_append_four b0 b1 b2 b3

/-- Four neighbouring bytes make up 32 neighbouring bits. -/
theorem be32_extractLsb' {n : Nat} (x : BitVec n) (i : Nat) :
    be32 (x.extractLsb' (i + 24) 8) (x.extractLsb' (i + 16) 8) (x.extractLsb' (i + 8) 8) (x.extractLsb' i 8) =
      x.extractLsb' i 32 := by
  simp only [be32, BitVec.extractLsb'_append_extractLsb'_eq_extractLsb']

theorem blockWord_eq_extractLsb' (b : Block) {j : Nat} (hj : j < 4) :
    blockWord b j = b.extractLsb' (32 * (3 - j)) 32 := by
  interval_cases j <;> exact be32_extractLsb' b _

/-- The words of a block, stored in their order, give it back (R46). -/
theorem blockOfWords_loadBlock (b : Block) :
    blockOfWords (loadBlock b).w0 (loadBlock b).w1 (loadBlock b).w2 (loadBlock b).w3 = b := by
  simp (disch := decide) only [loadBlock, blockWord_eq_extractLsb']
  exact append_four_extractLsb' (w := 32) b

theorem loadBlock_injective : Function.Injective loadBlock := by
  intro b c h
  rw [← blockOfWords_loadBlock b, h, blockOfWords_loadBlock c]

/-- Loading what the transform has stored gives its words in reverse order (R78, R79). -/
theorem loadBlock_storeReversed (x : Quad) : loadBlock (storeReversed x) = ⟨x.w3, x.w2, x.w1, x.w0⟩ := by
  obtain ⟨h3, h2, h1, h0⟩ := extractLsb'_append_four x.w3 x.w2 x.w1 x.w0
  simp (disch := decide) only [loadBlock, blockWord_eq_extractLsb', Quad.mk.injEq]
  exact ⟨h3, h2, h1, h0⟩

theorem storeReversed_injective : Function.Injective storeReversed := by
  intro x y h
  have hwords := congrArg loadBlock h
  rw [loadBlock_storeReversed, loadBlock_storeReversed, Quad.mk.injEq] at hwords
  obtain ⟨h3, h2, h1, h0⟩ := hwords
  cases x; cases y
  rw [Quad.mk.injEq]
  exact ⟨h0, h1, h2, h3⟩

/-! ### The byte substitution -/

theorem tau_be32 (b0 b1 b2 b3 : Byte) : tau (be32 b0 b1 b2 b3) = be32 (sBox b0) (sBox b1) (sBox b2) (sBox b3) := by
  obtain ⟨h0, h1, h2, h3⟩ := wordByte_be32 b0 b1 b2 b3
  rw [tau, h0, h1, h2, h3]

/-- Each byte of a word is an entry of S, so the word is tau of the four indices (R63, R75). -/
theorem tau_surjective : Function.Surjective tau := by
  intro w
  obtain ⟨b0, h0⟩ := sBox_surjective (wordByte w 0)
  obtain ⟨b1, h1⟩ := sBox_surjective (wordByte w 1)
  obtain ⟨b2, h2⟩ := sBox_surjective (wordByte w 2)
  obtain ⟨b3, h3⟩ := sBox_surjective (wordByte w 3)
  exact ⟨be32 b0 b1 b2 b3, by rw [tau_be32, h0, h1, h2, h3, be32_wordByte]⟩

/-- Settles O26: tau of four bytes is their S entries, and it meets every one of the finitely many words. -/
theorem tauIsBytewiseAndBijective : Obligations.TauIsBytewiseAndBijective :=
  ⟨tau_be32, tau_surjective.bijective_of_finite⟩

/-! ### The transform is a bijection -/

/-- A round keeps three words and adds to the fourth a value that depends on these three and the round key alone (R79). -/
theorem cipherRound_injective (k : Word) : Function.Injective fun x => cipherRound x k := by
  rintro ⟨x0, x1, x2, x3⟩ ⟨y0, y1, y2, y3⟩ h
  simp only [cipherRound, Quad.mk.injEq] at h
  obtain ⟨rfl, rfl, rfl, h⟩ := h
  rw [(BitVec.xor_left_inj _).mp h]

theorem cipherRounds_injective (ks : List Word) : Function.Injective (ks.foldl cipherRound) := by
  induction ks with
  | nil => exact Function.injective_id
  | cons k ks ih => exact ih.comp (cipherRound_injective k)

theorem blockE_injective (rk : Vector Word 32) : Function.Injective (blockE rk) :=
  storeReversed_injective.comp ((cipherRounds_injective rk.toList).comp loadBlock_injective)

/-- Settles O31: loading, each round and storing are injective, and the blocks are finitely many. -/
theorem blockTransformIsBijective : Obligations.BlockTransformIsBijective :=
  fun rk => (blockE_injective rk).bijective_of_finite

/-! ### The sequence x -/

/-- The round key RK[i]; zero where there is none, from 32 on. -/
def roundKey (rk : Vector Word 32) (i : Nat) : Word := rk[i]?.getD 0#32

theorem roundKey_eq_getElem (rk : Vector Word 32) {i : Nat} (hi : i < 32) : roundKey rk i = rk[i] := by
  simp [roundKey, hi]

theorem map_roundKey (rk : Vector Word 32) : (List.range 32).map (roundKey rk) = rk.toList :=
  List.ext_getElem (by simp) fun i hi _ => by
    simp [roundKey_eq_getElem rk (by simpa using hi)]

/-- The words x[i] to x[i+3] of the sequence that starts with the four words `x` (R79). -/
def cipherWindow (rk : Vector Word 32) (x : Quad) : Nat → Quad
  | 0 => x
  | i + 1 => cipherRound (cipherWindow rk x i) (roundKey rk i)

/-- The word x[i] of that sequence. -/
def cipherWord (rk : Vector Word 32) (x : Quad) (i : Nat) : Word := (cipherWindow rk x i).w0

/-- R79's recurrence. -/
theorem cipherWord_add_four (rk : Vector Word 32) (x : Quad) (i : Nat) :
    cipherWord rk x (i + 4) = cipherWord rk x i ^^^ Sys2Proof.Spec.cipherT
      (cipherWord rk x (i + 1) ^^^ cipherWord rk x (i + 2) ^^^ cipherWord rk x (i + 3) ^^^ roundKey rk i) := rfl

/-- The sequence starts with the words of the block (R78). -/
theorem cipherWord_loadBlock (rk : Vector Word 32) (b : Block) {j : Nat} (hj : j < 4) :
    cipherWord rk (loadBlock b) j = Sys2Proof.Spec.wordAt b j := by
  interval_cases j <;> rfl

/-- After n rounds the four words are x[n] to x[n+3]. -/
theorem foldl_cipherRound (rk : Vector Word 32) (x : Quad) (n : Nat) :
    ((List.range n).map (roundKey rk)).foldl cipherRound x = cipherWindow rk x n := by
  induction n with
  | zero => rfl
  | succ n ih =>
    rw [List.range_succ, List.map_append, List.foldl_append, ih]
    rfl

/-- After the last round they are x[32] to x[35]. -/
theorem blockE_eq (rk : Vector Word 32) (b : Block) :
    blockE rk b = storeReversed (cipherWindow rk (loadBlock b) 32) := by
  rw [blockE, ← map_roundKey, foldl_cipherRound]

/-- The words of the output are x[35] down to x[32] (R79). -/
theorem wordAt_blockE (rk : Vector Word 32) (b : Block) {j : Nat} (hj : j < 4) :
    Sys2Proof.Spec.wordAt (blockE rk b) j = cipherWord rk (loadBlock b) (35 - j) := by
  have hload := loadBlock_storeReversed (cipherWindow rk (loadBlock b) 32)
  rw [← blockE_eq] at hload
  interval_cases j
  · exact congrArg Quad.w0 hload
  · exact congrArg Quad.w1 hload
  · exact congrArg Quad.w2 hload
  · exact congrArg Quad.w3 hload

/-! ### The command -/

/-- Settles O30: the rounds of the transform are steps of the sequence x, and its output is the last window, stored in reverse. -/
theorem blkencWritesTheTransform : Obligations.BlkencWritesTheTransform := by
  refine ⟨decode_encode .blkenc, fun s => ⟨fun hrkv => ?_, exec_noKeySchedule (.inl rfl)⟩⟩
  refine ⟨blockE s.rk s.a, cipherWord s.rk (loadBlock s.a), exec_blkenc_eq hrkv, ?_, fun i => ?_, ?_⟩
  · exact fun _ => cipherWord_loadBlock s.rk s.a
  · rw [cipherWord_add_four, roundKey_eq_getElem s.rk i.isLt]
    rfl
  · exact fun _ => wordAt_blockE s.rk s.a

end Sys2Proof.Machine
end
section
/-!
The statements of 43_gf_multiplier.md: GFMUL multiplies polynomials modulo the reduction polynomial (O32), and GFMul obeys the laws
of a commutative ring (O33). Both rest on one fact: at a root of the reduction polynomial the value of GFMul(X, Y) is the product of
the values of X and Y. The root is x modulo that polynomial. The values are taken in any ring; the polynomials over GF(2) come last.
-/

namespace Sys2Proof.Machine

open Polynomial Finset
open Sys2Proof.Spec (blockPoly fieldPoly)

/-! ### The field bits of a block -/

/-- Field bit 0 is the most significant bit of byte 0 (R51, R86). -/
theorem fieldBit_eq_getLsbD (b : Block) {i : Nat} (hi : i < 128) : fieldBit b i = b.getLsbD (127 - i) := by
  have hindex : 8 * (15 - i / 8) + (7 - i % 8) = 127 - i := by omega
  rw [fieldBit, BitVec.getLsbD_eq_getElem (by omega), getElem_blockByte, hindex]

theorem fieldBit_xor (a b : Block) (i : Nat) : fieldBit (a ^^^ b) i = (fieldBit a i ^^ fieldBit b i) := by
  simp [fieldBit, blockByte_xor]

theorem fieldBit_ushiftRight_one_zero (v : Block) : fieldBit (v >>> 1) 0 = false := by
  simp [fieldBit_eq_getLsbD]

theorem fieldBit_ushiftRight_one_succ (v : Block) {i : Nat} (hi : i + 1 < 128) :
    fieldBit (v >>> 1) (i + 1) = fieldBit v i := by
  have hindex : 1 + (127 - (i + 1)) = 127 - i := by omega
  rw [fieldBit_eq_getLsbD _ hi, BitVec.getLsbD_ushiftRight, hindex, fieldBit_eq_getLsbD _ (by omega)]

theorem block_ext {a b : Block} (h : ∀ i, i < 128 → fieldBit a i = fieldBit b i) : a = b := by
  refine BitVec.eq_of_getLsbD_eq fun i hi => ?_
  have hindex : 127 - (127 - i) = i := by omega
  have hbit := h (127 - i) (by omega)
  rwa [fieldBit_eq_getLsbD _ (by omega), fieldBit_eq_getLsbD _ (by omega), hindex] at hbit

/-! ### The value of a block at a point -/

section
variable {R S : Type*} [CommRing R] [CommRing S]

/-- The term of degree i of a block at a point: its field bit i times that power (R86). -/
def fieldTerm (α : R) (b : Block) (i : Nat) : R := if fieldBit b i then α ^ i else 0

/-- The value at a point of the polynomial a block stands for (R86). -/
def evalBlock (α : R) (b : Block) : R := ∑ i ∈ range 128, fieldTerm α b i

/-- A point where the reduction polynomial vanishes, in a ring where 2 is zero (R88). -/
structure IsReductionRoot (α : R) : Prop where
  two_eq_zero : (2 : R) = 0
  pow_128 : α ^ 128 = 1 + (α + (α ^ 2 + α ^ 7))

theorem map_evalBlock (f : R →+* S) (α : R) (b : Block) : f (evalBlock α b) = evalBlock (f α) b := by
  simp [evalBlock, fieldTerm, apply_ite f]

theorem evalBlock_eq_sum_filter (α : R) (b : Block) : evalBlock α b = ∑ i ∈ range 128 with fieldBit b i, α ^ i :=
  (sum_filter _ _).symm

theorem evalBlock_zero (α : R) : evalBlock α 0#128 = 0 := by
  simp [evalBlock, fieldTerm, fieldBit_zero]

/-- The block 80 00..00 is the polynomial one (R90). -/
theorem evalBlock_one (α : R) : evalBlock α 0x80000000000000000000000000000000#128 = 1 := by
  have hbits : ({i ∈ range 128 | fieldBit 0x80000000000000000000000000000000#128 i} : Finset Nat) = {0} := by decide
  rw [evalBlock_eq_sum_filter, hbits, sum_singleton, pow_zero]

/-- 0xE1 in byte 0 is the reduction polynomial without its leading term (R88). -/
theorem evalBlock_reduction (α : R) : evalBlock α reduction = 1 + (α + (α ^ 2 + α ^ 7)) := by
  have hbits : ({i ∈ range 128 | fieldBit reduction i} : Finset Nat) = {0, 1, 2, 7} := by decide
  rw [evalBlock_eq_sum_filter, hbits]
  simp

theorem evalBlock_xor {α : R} (h2 : (2 : R) = 0) (a b : Block) :
    evalBlock α (a ^^^ b) = evalBlock α a + evalBlock α b := by
  have hdouble (r : R) : r + r = 0 := by rw [← two_mul, h2, zero_mul]
  have hterm (i : Nat) : fieldTerm α (a ^^^ b) i = fieldTerm α a i + fieldTerm α b i := by
    rw [fieldTerm, fieldBit_xor]
    cases ha : fieldBit a i <;> cases hb : fieldBit b i <;> simp [fieldTerm, ha, hb, hdouble]
  simp only [evalBlock, hterm, sum_add_distrib]

/-- The shift by one moves each term one degree up, and the term of degree 127 drops out (R51). -/
theorem evalBlock_ushiftRight_one (α : R) (v : Block) :
    evalBlock α (v >>> 1) = α * ∑ i ∈ range 127, fieldTerm α v i := by
  have hzero : fieldTerm α (v >>> 1) 0 = 0 := by simp [fieldTerm, fieldBit_ushiftRight_one_zero]
  have hsucc (i : Nat) (hi : i ∈ range 127) : fieldTerm α (v >>> 1) (i + 1) = α * fieldTerm α v i := by
    have hbit := fieldBit_ushiftRight_one_succ v (Nat.add_lt_add_right (mem_range.mp hi) 1)
    simp [fieldTerm, hbit, pow_succ']
  rw [evalBlock, sum_range_succ', hzero, add_zero, sum_congr rfl hsucc, mul_sum]

/-- The shift is multiplication by x: where the term of degree 127 is present, the reduction puts in what x^128 is equal to
(R87, R88). -/
theorem evalBlock_shiftReduce {α : R} (hα : IsReductionRoot α) (v : Block) :
    evalBlock α (shiftReduce v) = α * evalBlock α v := by
  have hsplit : α * evalBlock α v = evalBlock α (v >>> 1) + α * fieldTerm α v 127 := by
    rw [evalBlock_ushiftRight_one, ← mul_add, ← sum_range_succ, evalBlock]
  have hshift : shiftReduce v = if fieldBit v 127 then (v >>> 1) ^^^ reduction else v >>> 1 := rfl
  rw [hsplit, hshift, fieldTerm]
  cases fieldBit v 127 with
  | false => simp
  | true =>
    rw [if_pos rfl, if_pos rfl, evalBlock_xor hα.two_eq_zero, evalBlock_reduction, ← hα.pow_128, ← pow_succ']

/-- After n iterations Z is the product of Y and the first n terms of X, and V is Y times x^n (R87). -/
theorem evalBlock_foldl_gfStep {α : R} (hα : IsReductionRoot α) (x y : Block) (n : Nat) :
    evalBlock α ((List.range n).foldl (gfStep x) (0#128, y)).1 = (∑ i ∈ range n, fieldTerm α x i) * evalBlock α y ∧
      evalBlock α ((List.range n).foldl (gfStep x) (0#128, y)).2 = α ^ n * evalBlock α y := by
  induction n with
  | zero => simp [evalBlock_zero]
  | succ n ih =>
    obtain ⟨hz, hv⟩ := ih
    rw [List.range_succ, List.foldl_append, List.foldl_cons, List.foldl_nil]
    constructor
    · rw [gfStep, sum_range_succ, add_mul, ← hz, fieldTerm]
      cases fieldBit x n with
      | false => simp
      | true => simp [evalBlock_xor hα.two_eq_zero, hv]
    · rw [gfStep, evalBlock_shiftReduce hα, hv, pow_succ', mul_assoc]

/-- At a root of the reduction polynomial GFMul is the product of the values (R86, R88). -/
theorem evalBlock_gfMul {α : R} (hα : IsReductionRoot α) (x y : Block) :
    evalBlock α (gfMul x y) = evalBlock α x * evalBlock α y :=
  (evalBlock_foldl_gfStep hα x y 128).1

/-! ### The polynomial of a block -/

theorem coeff_evalBlock_X (b : Block) (i : Nat) :
    (evalBlock (X : R[X]) b).coeff i = if i < 128 ∧ fieldBit b i then 1 else 0 := by
  simp [evalBlock_eq_sum_filter, coeff_X_pow]

theorem degree_evalBlock_X_lt (b : Block) : (evalBlock (X : R[X]) b).degree < (128 : Nat) := by
  refine (degree_lt_iff_coeff_zero _ 128).mpr fun i hi => ?_
  rw [coeff_evalBlock_X, if_neg (by omega)]

theorem evalBlock_X_injective [Nontrivial R] : Function.Injective (evalBlock (X : R[X])) := by
  have hbit (b : Block) {i : Nat} (hi : i < 128) : fieldBit b i = true ↔ (evalBlock (X : R[X]) b).coeff i = 1 := by
    simp [coeff_evalBlock_X, hi]
  refine fun a b h => block_ext fun i hi => Bool.eq_iff_iff.mpr ?_
  rw [hbit a hi, h, hbit b hi]

/-- The value of a block at x modulo f is its polynomial, up to a multiple of f. -/
theorem mk_evalBlock_X (f : R[X]) (b : Block) : AdjoinRoot.mk f (evalBlock X b) = evalBlock (AdjoinRoot.root f) b :=
  map_evalBlock _ _ b

/-- Polynomials that are equal modulo f differ by a multiple of f. -/
theorem eq_add_mul_of_mk_eq_mk {f p r : R[X]} (h : AdjoinRoot.mk f p = AdjoinRoot.mk f r) : ∃ q, p = r + q * f := by
  obtain ⟨q, hq⟩ := AdjoinRoot.mk_eq_mk.mp h
  exact ⟨q, by rw [mul_comm q, ← hq, add_sub_cancel]⟩

/-- The product of two blocks' polynomials is that of their GFMul, up to a multiple of f (R86, R88). -/
theorem evalBlock_X_mul {f : R[X]} (hf : IsReductionRoot (AdjoinRoot.root f)) (x y : Block) :
    ∃ q : R[X], evalBlock X x * evalBlock X y = evalBlock X (gfMul x y) + q * f := by
  apply eq_add_mul_of_mk_eq_mk
  rw [map_mul, mk_evalBlock_X, mk_evalBlock_X, mk_evalBlock_X, evalBlock_gfMul hf]

/-- Remainders modulo f that are equal modulo f are equal. -/
theorem eq_of_mk_eq_mk_of_degree_lt [IsDomain R] {f p q : R[X]} {n : Nat} (hf : f.degree = n) (hp : p.degree < n)
    (hq : q.degree < n) (h : AdjoinRoot.mk f p = AdjoinRoot.mk f q) : p = q := by
  have hdegree : (p - q).degree < f.degree := hf ▸ (degree_sub_le p q).trans_lt (max_lt hp hq)
  exact sub_eq_zero.mp (eq_zero_of_dvd_of_degree_lt (AdjoinRoot.mk_eq_mk.mp h) hdegree)

/-- The polynomials of blocks are remainders modulo an f of degree 128, so blocks that are equal modulo f are equal. -/
theorem evalBlock_root_injective [IsDomain R] {f : R[X]} (hf : f.degree = (128 : Nat)) :
    Function.Injective (evalBlock (AdjoinRoot.root f)) := by
  intro a b h
  rw [← mk_evalBlock_X, ← mk_evalBlock_X] at h
  exact evalBlock_X_injective
    (eq_of_mk_eq_mk_of_degree_lt hf (degree_evalBlock_X_lt a) (degree_evalBlock_X_lt b) h)

end

/-! ### The reduction polynomial -/

/-- The polynomial a block stands for is its value at x (R86). -/
theorem blockPoly_eq (b : Block) : blockPoly b = evalBlock X b := rfl

theorem degree_fieldPoly : fieldPoly.degree = (128 : Nat) := by
  unfold fieldPoly
  compute_degree!

theorem aeval_fieldPoly {S : Type*} [CommRing S] [Algebra (ZMod 2) S] (α : S) :
    aeval α fieldPoly = α ^ 128 + α ^ 7 + α ^ 2 + α + 1 := by
  unfold fieldPoly
  simp only [map_add, map_pow, map_one, aeval_X]

/-- x modulo the reduction polynomial is a root of it. -/
theorem isReductionRoot_root : IsReductionRoot (AdjoinRoot.root fieldPoly) := by
  have htwo := congrArg (AdjoinRoot.of fieldPoly) (CharTwo.two_eq_zero (R := ZMod 2))
  have hroot := aeval_fieldPoly (AdjoinRoot.root fieldPoly)
  rw [map_ofNat, map_zero] at htwo
  rw [AdjoinRoot.aeval_eq, AdjoinRoot.mk_self] at hroot
  generalize AdjoinRoot.root fieldPoly = α at hroot ⊢
  refine ⟨htwo, ?_⟩
  linear_combination -hroot - (1 + (α + (α ^ 2 + α ^ 7))) * htwo

/-! ### The statements -/

theorem exec_gfmul_eq (s : State) : exec .gfmul s = .next (s.setR (gfMul s.a s.b)).succeed := rfl

/-- Settles O32: the polynomial a block stands for is its value at x, and R takes GFMul(A, B). -/
theorem gfmulMultipliesPolynomials : Obligations.GfmulMultipliesPolynomials := by
  intro s
  obtain ⟨q, hq⟩ := evalBlock_X_mul isReductionRoot_root s.a s.b
  refine ⟨gfMul s.a s.b, exec_gfmul_eq s, q, ?_⟩
  rw [blockPoly_eq, blockPoly_eq, blockPoly_eq]
  -- The statement takes `ZMod 2` as a field and `hq` as a ring: reducible matching does not unfold the blocks' values on the way.
  with_reducible exact hq

/-- Settles O33: the laws are those of the quotient ring, where different blocks have different values. -/
theorem gfmulObeysTheRingLaws : Obligations.GfmulObeysTheRingLaws := by
  intro x y w
  have hmul := evalBlock_gfMul isReductionRoot_root
  have hxor := evalBlock_xor (α := AdjoinRoot.root fieldPoly) isReductionRoot_root.two_eq_zero
  refine ⟨?comm, ?assoc, ?distrib, gfMul_zero_left y, ?one⟩
  all_goals apply evalBlock_root_injective degree_fieldPoly
  case comm => rw [hmul, hmul, mul_comm]
  case assoc => simp only [hmul, mul_assoc]
  case distrib => simp only [hmul, hxor, add_mul]
  case one => rw [hmul, evalBlock_one, one_mul]

end Sys2Proof.Machine
end

section
/-!
The statements of 44_ghash.md: GHASH folds the blocks of the AAD, those of the data and the length block (O35), the two halves of the
length block (O36), the empty message (O37), and the zero subkey (O38). All but O36 rest on GHash as one fold over a list of blocks.
-/

namespace Sys2Proof.Machine

/-! ### The length block -/

/-- Settles O36: the halves are the two parts of the concatenation, and eight times a count below 2^61 fits in 64 bits. -/
theorem lengthBlockHoldsBitLengths : Obligations.LengthBlockHoldsBitLengths := by
  intro a c ha hc
  have hhigh : (lenBlock a c).extractLsb' 64 64 = BitVec.ofNat 64 (8 * a) := BitVec.extractLsb'_append_eq_left
  have hlow : (lenBlock a c).extractLsb' 0 64 = BitVec.ofNat 64 (8 * c) := BitVec.extractLsb'_append_eq_right
  rw [hhigh, hlow, BitVec.toNat_ofNat, BitVec.toNat_ofNat]
  omega

/-! ### Padded blocks -/

/-- The bytes 0 to n of a sequence, the first one most significant. -/
def joinBytes (f : Nat → Byte) : (n : Nat) → BitVec (8 * (n + 1))
  | 0 => f 0
  | n + 1 => joinBytes f n ++ f (n + 1)

theorem extractLsb'_joinBytes (f : Nat → Byte) {n k : Nat} (hk : k ≤ n) :
    (joinBytes f n).extractLsb' (8 * (n - k)) 8 = f k := by
  induction n with
  | zero =>
    obtain rfl : k = 0 := by omega
    exact BitVec.extractLsb'_eq_self
  | succ n ih =>
    rw [joinBytes]
    by_cases hlast : k = n + 1
    · subst hlast
      rw [Nat.sub_self]
      exact BitVec.extractLsb'_append_eq_right
    · have hoffset : 8 * (n + 1 - k) - 8 = 8 * (n - k) := by omega
      rw [BitVec.extractLsb'_append_eq_of_le (by omega), hoffset, ih (by omega)]

theorem pad_eq_joinBytes (c : List Byte) : pad c = joinBytes (c.getD · 0) 15 := rfl

/-- Byte k of a padded chunk is its byte k, or zero past its end (R93). -/
theorem blockByte_pad (c : List Byte) {k : Nat} (hk : k < 16) : blockByte (pad c) k = c.getD k 0 := by
  rw [pad_eq_joinBytes, blockByte, extractLsb'_joinBytes _ (by omega)]

theorem block_ext_bytes {a b : Block} (h : ∀ k, k < 16 → blockByte a k = blockByte b k) : a = b :=
  block_ext fun i hi => by rw [fieldBit, fieldBit, h (i / 8) (by omega)]

/-- A block's 16 bytes are a chunk that needs no padding (R93). -/
theorem pad_blockBytes (b : Block) : pad (blockBytes b) = b := by
  refine block_ext_bytes fun k hk => ?_
  rw [blockByte_pad _ hk, List.getD_eq_getElem _ _ (by simpa using hk), getElem_blockBytes]

/-- The blocks a field is folded as: its chunks in order, zero-padded (R93, R94). -/
def paddedChunks (field : List Byte) : List Block := (chunks field).map pad

@[simp] theorem paddedChunks_length (field : List Byte) : (paddedChunks field).length = chunkCount field.length := by
  simp [paddedChunks]

/-- A field of one block (R96). -/
theorem paddedChunks_blockBytes (b : Block) : paddedChunks (blockBytes b) = [b] := by
  have hne : blockBytes b ≠ [] := List.ne_nil_of_length_eq_add_one (blockBytes_length b)
  rw [paddedChunks, chunks_short hne (blockBytes_length b).le, List.map_singleton, pad_blockBytes]

/-- Byte k of block j is byte 16j + k of the field, or zero past its end (R52, R93). -/
theorem blockByte_paddedChunks (field : List Byte) {j k : Nat} (hj : j < (paddedChunks field).length) (hk : k < 16) :
    blockByte ((paddedChunks field).getD j 0#128) k = field.getD (16 * j + k) 0 := by
  have hblock : (paddedChunks field).getD j 0#128 = pad (chunk field j) := by
    rw [List.getD_eq_getElem _ _ hj]
    simp [paddedChunks, chunks]
  rw [hblock, blockByte_pad _ hk]
  simp [chunk, List.getD_eq_getElem?_getD, hk]

/-- The byte string of a buffer's range reads as zero past its end (R47). -/
theorem getD_readBytes_zero (m : Memory) (n k : Nat) :
    (m.readBytes 0 n).getD k 0 = if k < n then m.read k else 0x00#8 := by
  by_cases hk : k < n
  · rw [if_pos hk, List.getD_eq_getElem _ _ (by simpa using hk), getElem_readBytes, Nat.zero_add]
  · rw [if_neg hk, List.getD_eq_default _ _ (by simpa using hk)]
    rfl

/-- Each byte of the padded blocks of a buffer's first n bytes (R52, R93). -/
theorem blockByte_paddedChunks_readBytes (m : Memory) (n : Nat) (j k : Nat)
    (hj : j < (paddedChunks (m.readBytes 0 n)).length) (hk : k < 16) :
    blockByte ((paddedChunks (m.readBytes 0 n)).getD j 0#128) k =
      if 16 * j + k < n then m.read (16 * j + k) else 0x00#8 := by
  rw [blockByte_paddedChunks _ hj hk, getD_readBytes_zero]

/-! ### The accumulator as one fold -/

/-- One block taken into the accumulator: xor, then multiplication with the subkey (R94). -/
def absorb (h y blk : Block) : Block := gfMul (y ^^^ blk) h

theorem fold_eq_foldl_absorb (y h : Block) (field : List Byte) : fold y h field = (paddedChunks field).foldl (absorb h) y := by
  rw [paddedChunks, List.foldl_map]
  rfl

/-- GHash takes in the blocks of the AAD, those of the data and the length block, from zero (R95, R97). -/
theorem gHash_eq_foldl_absorb (h : Block) (aad ct : List Byte) :
    gHash h aad ct =
      (paddedChunks aad ++ paddedChunks ct ++ [lenBlock aad.length ct.length]).foldl (absorb h) 0#128 := by
  rw [gHash, fold_eq_foldl_absorb, fold_eq_foldl_absorb, fold_eq_foldl_absorb, paddedChunks_blockBytes, List.foldl_append,
    List.foldl_append]

/-! ### The statements -/

/-- Settles O35: the blocks are the padded chunks of the two byte strings GHASH reads. -/
theorem ghashFoldsTheThreeFields : Obligations.GhashFoldsTheThreeFields := by
  refine ⟨decode_encode .ghash, fun s hlegal => ⟨paddedChunks s.aadBytes, paddedChunks s.dataBytes, ?_, ?_, ?_, ?_, ?_⟩⟩
  · rw [exec_ghash_eq hlegal, gHash_eq_foldl_absorb, aadBytes_length, dataBytes_length]
    rfl
  · rw [paddedChunks_length, aadBytes_length, chunkCount]
  · rw [paddedChunks_length, dataBytes_length, chunkCount]
  · exact blockByte_paddedChunks_readBytes s.aadbuf s.aadlen.toNat
  · exact blockByte_paddedChunks_readBytes s.dinbuf s.dlen.toNat

/-- Settles O37: the length block is the one block taken in, so the tag is the mask xor zero. -/
theorem emptyInputGhashIsZero : Obligations.EmptyInputGhashIsZero := by
  refine fun h rk nonce => ⟨gHash_eq_foldl_absorb h [] [], gHash_nil h, ?_⟩
  rw [sealMessage_eq, ctrXor_nil, gHash_nil, BitVec.zero_xor]

/-- The product with zero on the right, by R90's commutativity. -/
theorem gfMul_zero_right (x : Block) : gfMul x 0#128 = 0#128 := by
  obtain ⟨hcomm, -⟩ := gfmulObeysTheRingLaws x 0#128 0#128
  rw [hcomm, gfMul_zero_left]

/-- Settles O38: with the zero subkey each block leaves the accumulator at zero. -/
theorem zeroSubkeyFoldsToZero : Obligations.ZeroSubkeyFoldsToZero := by
  intro aad ct
  have habsorb (blk : Block) : absorb 0#128 0#128 blk = 0#128 := gfMul_zero_right (0#128 ^^^ blk)
  rw [gHash_eq_foldl_absorb, List.foldl_fixed' habsorb]

end Sys2Proof.Machine
end

section
/-!
The statements of 45_counter_mode.md: Inc32 stays in the count (O39), CTRXOR xors the data with the keystream (O40), and the pass is
its own inverse (O41). The last two rest on `ctrXor_spec`, which gives each byte of the pass.
-/

namespace Sys2Proof.Machine

/-! ### The counter -/

/-- Bytes 0 to 11 of a counter block are those of its head, whatever its count (R103). -/
theorem blockByte_append_count (h : BitVec 96) (w : Word) {k : Nat} (hk : k < 12) :
    blockByte (h ++ w) k = h.extractLsb' (8 * (15 - k) - 32) 8 :=
  BitVec.extractLsb'_append_eq_of_le (by omega)

/-- A change of the count leaves bytes 0 to 11 (R103). -/
theorem blockByte_counterHead_append (c : Block) (w : Word) {k : Nat} (hk : k < 12) :
    blockByte (counterHead c ++ w) k = blockByte c k := by
  conv_rhs => rw [← counterAt_zero c, counterAt, blockByte_append_count _ _ hk]
  exact blockByte_append_count _ w hk

/-- The count of the next counter block (R104). -/
theorem counterCount_inc32 (c : Block) : counterCount (inc32 c) = counterCount c + 1#32 :=
  counterCount_append _ _

/-- Settles O39: Inc32 keeps the head, and its count is a 32-bit sum. -/
theorem incrementStaysInTheCount : Obligations.IncrementStaysInTheCount := by
  refine fun c => ⟨fun k hk => blockByte_counterHead_append c _ hk, ?_⟩
  have hcount := congrArg BitVec.toNat (counterCount_inc32 c)
  rwa [BitVec.toNat_add] at hcount

/-! ### The pass -/

/-- Byte k of the pass (R109). -/
theorem getD_ctrXor (rk : Vector Word 32) (c : Block) {data : List Byte} {k : Nat} (hk : k < data.length) :
    (ctrXor rk c data).getD k 0 = data.getD k 0 ^^^ blockByte (blockE rk (counterAt c (k / 16))) (k % 16) :=
  (ctrXor_spec rk c data).2 k hk

/-- Each byte is xored twice with the same keystream byte (R107). -/
theorem ctrXor_ctrXor (rk : Vector Word 32) (c : Block) (data : List Byte) : ctrXor rk c (ctrXor rk c data) = data := by
  refine List.ext_getElem (by simp) fun k hk hdata => ?_
  rw [← List.getD_eq_getElem _ 0 hk, ← List.getD_eq_getElem _ 0 hdata, getD_ctrXor rk c (by simpa using hdata),
    getD_ctrXor rk c hdata, BitVec.xor_assoc, BitVec.xor_self, BitVec.xor_zero]

/-- Settles O41: the pass keeps the length, so the second pass meets each byte again. -/
theorem counterModeIsItsOwnInverse : Obligations.CounterModeIsItsOwnInverse :=
  fun rk ctr data => ⟨ctrXor_length rk ctr data, ctrXor_ctrXor rk ctr data⟩

/-! ### The command -/

/-- DOUTBUF after a pass over the data from counter `c` has been written to it: the pass below DLEN, and the old bytes from there on
(R48, R109). -/
theorem read_withOutput_ctrXor {s : State} (hwf : s.doutbuf.wf = true) (c : Block) (k : Nat) :
    (s.withOutput (ctrXor s.rk c s.dataBytes)).doutbuf.read k =
      if k < s.dlen.toNat then s.dinbuf.read k ^^^ blockByte (blockE s.rk (counterAt c (k / 16))) (k % 16)
      else s.doutbuf.read k := by
  have hwrite := read_writeBytes hwf 0 (ctrXor s.rk c s.dataBytes) k
  simp only [ctrXor_length, dataBytes_length, Nat.zero_le, Nat.zero_add, Nat.sub_zero, true_and] at hwrite
  refine hwrite.trans ?_
  by_cases hk : k < s.dlen.toNat
  · rw [if_pos hk, if_pos hk, getD_ctrXor s.rk c (by simpa using hk), State.dataBytes, getD_readBytes_zero, if_pos hk]
  · rw [if_neg hk, if_neg hk]

/-- With a schedule but too small an OUTCAP CTRXOR raises BufferLengthMismatch (R106). -/
theorem exec_ctrxor_bufferLengthMismatch {s : State} (hrkv : s.rkv = true) (hcap : s.outcap < s.dlen) :
    exec .ctrxor s = .next (s.raise .bufferLengthMismatch) := by
  rw [exec, execCtrxor, raiseIf_neg (by simp [hrkv]), raiseIf_pos (decide_eq_true hcap)]

/-- Settles O40: past its checks CTRXOR writes DOUTBUF with the pass from A. -/
theorem ctrxorXorsTheKeystream : Obligations.CtrxorXorsTheKeystream := by
  refine ⟨decode_encode .ctrxor, fun s => ⟨fun hrkv hcap hdata hwf => ?_, ?_, ?_⟩⟩
  · exact ⟨_, exec_ctrxor_eq hrkv hcap hdata, read_withOutput_ctrXor hwf s.a⟩
  · exact exec_noKeySchedule (.inr (.inl rfl))
  · exact exec_ctrxor_bufferLengthMismatch

end Sys2Proof.Machine
end

section
/-!
What one flipped bit does to the accumulator, for O47 in 46_aead.md: it changes it by a power of x times a power of H. Such a term
is not zero unless H is, because x has an inverse modulo the reduction polynomial and the polynomial has no repeated factor; that it
is irreducible (GK4) is not needed.
-/

namespace Sys2Proof.Machine

open Polynomial Finset
open Sys2Proof.Spec (fieldPoly)

/-! ### The reduction polynomial has no repeated factor -/

section
variable {R : Type*} [CommRing R]

/-- Where 2 is zero, the derivative of the reduction polynomial is x^6 + 1. -/
theorem derivative_reductionPoly (h2 : (2 : R[X]) = 0) :
    derivative (X ^ 128 + X ^ 7 + X ^ 2 + X + 1 : R[X]) = X ^ 6 + 1 := by
  simp only [derivative_add, derivative_X_pow, derivative_X, derivative_one, map_natCast]
  push_cast
  linear_combination (64 * X ^ 127 + 3 * X ^ 6 + X) * h2

/-- Where 2 is zero, the reduction polynomial leaves the remainder 1 when divided by its derivative. -/
theorem separable_reductionPoly (h2 : (2 : R[X]) = 0) : (X ^ 128 + X ^ 7 + X ^ 2 + X + 1 : R[X]).Separable := by
  have hgeom := geom_sum_mul (X ^ 6 : R[X]) 21
  rw [separable_def', derivative_reductionPoly h2]
  refine ⟨1, X ^ 2 * ∑ i ∈ range 21, (X ^ 6) ^ i + X, ?_⟩
  generalize ∑ i ∈ range 21, (X ^ 6 : R[X]) ^ i = g at hgeom ⊢
  linear_combination X ^ 2 * hgeom + (X ^ 128 + X ^ 7 + X ^ 2 * g + X) * h2

/-- The reduction polynomial's constant term is 1, so x has an inverse modulo it. -/
theorem IsReductionRoot.isUnit {α : R} (hα : IsReductionRoot α) : IsUnit α := by
  obtain ⟨h2, h128⟩ := hα
  refine IsUnit.of_mul_eq_one (α ^ 127 + α ^ 6 + α + 1) ?_
  linear_combination h128 + (α + α ^ 2 + α ^ 7) * h2

end

theorem separable_fieldPoly : fieldPoly.Separable := by
  have h2 : (2 : (ZMod 2)[X]) = 0 := CharTwo.two_eq_zero
  have hsep := separable_reductionPoly h2
  unfold fieldPoly
  with_reducible exact hsep

/-- Modulo an f of degree 128 without a repeated factor no power of a block other than zero is zero. -/
theorem evalBlock_root_pow_ne_zero {K : Type*} [Field K] {f : K[X]} (hdegree : f.degree = (128 : Nat)) (hf : Squarefree f)
    {h : Block} (hh : h ≠ 0#128) (m : Nat) : evalBlock (AdjoinRoot.root f) h ^ m ≠ 0 := by
  intro hpow
  rw [← mk_evalBlock_X, ← map_pow, AdjoinRoot.mk_eq_zero] at hpow
  have hzero := AdjoinRoot.mk_eq_zero.mpr (hf.isRadical m _ hpow)
  rw [mk_evalBlock_X, ← evalBlock_zero (AdjoinRoot.root f)] at hzero
  exact hh (evalBlock_root_injective hdegree hzero)

/-! ### One flipped bit -/

/-- A sequence with bit b of its entry k flipped. -/
def flipBit {w : Nat} (l : List (BitVec w)) (k b : Nat) : List (BitVec w) := l.modify k (· ^^^ BitVec.twoPow w b)

@[simp] theorem flipBit_length {w : Nat} (l : List (BitVec w)) (k b : Nat) : (flipBit l k b).length = l.length :=
  List.length_modify _ _ _

theorem getD_flipBit {w : Nat} {l : List (BitVec w)} {k : Nat} (hk : k < l.length) (b j : Nat) :
    (flipBit l k b).getD j 0#w = if k = j then l.getD j 0#w ^^^ BitVec.twoPow w b else l.getD j 0#w := by
  rw [flipBit, List.getD_eq_getElem?_getD, List.getElem?_modify, List.getD_eq_getElem?_getD]
  by_cases hj : k = j
  · subst hj
    simp [hk]
  · simp [hj]

/-- The byte string of a range after one bit in the buffer has been flipped (R47, R48). -/
theorem readBytes_write_flip {m : Memory} (hwf : m.wf = true) (n k b : Nat) :
    (m.write k (m.read k ^^^ BitVec.twoPow 8 b)).readBytes 0 n = flipBit (m.readBytes 0 n) k b := by
  refine List.ext_getElem (by simp) fun j _ _ => ?_
  simp only [flipBit, List.getElem_modify, getElem_readBytes, Nat.zero_add]
  by_cases hj : k = j
  · rw [if_pos hj, ← hj, read_write_same hwf]
  · rw [if_neg hj, read_write_other m (Ne.symm hj)]

/-- Bit b of byte k of a block is bit 8 * (15 - k) + b of the bit vector (R49). -/
theorem blockByte_twoPow {k j b : Nat} (hk : k < 16) (hj : j < 16) (hb : b < 8) :
    blockByte (BitVec.twoPow 128 (8 * (15 - k) + b)) j = if k = j then BitVec.twoPow 8 b else 0#8 := by
  have hrange : 8 * (15 - k) + b < 128 := by omega
  refine BitVec.eq_of_getElem_eq fun i hi => ?_
  rw [getElem_blockByte _ _ hi, BitVec.getLsbD_twoPow, decide_eq_true hrange, Bool.true_and]
  by_cases hkj : k = j
  · subst hkj
    simp [BitVec.getElem_twoPow, eq_comm]
  · have hne : 8 * (15 - k) + b ≠ 8 * (15 - j) + i := by omega
    simp [hkj, hne]

/-- Byte k of a field lies in block k / 16 (R52). -/
theorem div_lt_paddedChunks_length {field : List Byte} {k : Nat} (hk : k < field.length) :
    k / 16 < (paddedChunks field).length := by
  rw [paddedChunks_length, chunkCount]
  omega

/-- A flipped bit of a field is one flipped bit of its padded blocks (R93). -/
theorem paddedChunks_flipBit {field : List Byte} {k b : Nat} (hk : k < field.length) (hb : b < 8) :
    paddedChunks (flipBit field k b) = flipBit (paddedChunks field) (k / 16) (8 * (15 - k % 16) + b) := by
  refine List.ext_getElem (by simp) fun j hj hj' => block_ext_bytes fun i hi => ?_
  rw [← List.getD_eq_getElem _ 0#128 hj, ← List.getD_eq_getElem _ 0#128 hj', blockByte_paddedChunks _ hj hi,
    getD_flipBit (div_lt_paddedChunks_length hk), apply_ite (blockByte · i), blockByte_xor,
    blockByte_paddedChunks _ (by simpa using hj') hi, blockByte_twoPow (Nat.mod_lt k (by omega)) hi hb]
  refine (getD_flipBit hk b _).trans ?_
  by_cases hj : k / 16 = j
  · by_cases hi : k % 16 = i
    · rw [if_pos (by omega), if_pos hj, if_pos hi]
      rfl
    · rw [if_neg (by omega), if_pos hj, if_neg hi, BitVec.xor_zero]
      rfl
  · rw [if_neg (by omega), if_neg hj]
    rfl

section
variable {R : Type*} [CommRing R] {α : R}

theorem evalBlock_twoPow (α : R) {p : Nat} (hp : p < 128) : evalBlock α (BitVec.twoPow 128 p) = α ^ (127 - p) := by
  have hbits : ({i ∈ range 128 | fieldBit (BitVec.twoPow 128 p) i} : Finset Nat) = {127 - p} := by
    ext i
    rw [mem_filter, mem_range, mem_singleton]
    by_cases hi : i < 128
    · have hindex : p = 127 - i ↔ i = 127 - p := by omega
      rw [fieldBit_eq_getLsbD _ hi, BitVec.getLsbD_twoPow]
      simp [hi, hp, hindex]
    · have hne : i ≠ 127 - p := by omega
      simp [hi, hne]
  rw [evalBlock_eq_sum_filter, hbits, sum_singleton]

/-- The values of two accumulators differ by a power of x times a power of H. -/
def DifferByPowers (α : R) (h y y' : Block) : Prop :=
  ∃ i m : Nat, evalBlock α y' = evalBlock α y + α ^ i * evalBlock α h ^ m

theorem DifferByPowers.after_absorb {h y y' : Block} (hα : IsReductionRoot α) (hd : DifferByPowers α h y y') (blk : Block) :
    DifferByPowers α h (absorb h y blk) (absorb h y' blk) := by
  obtain ⟨i, m, hd⟩ := hd
  refine ⟨i, m + 1, ?_⟩
  rw [absorb, absorb, evalBlock_gfMul hα, evalBlock_gfMul hα, evalBlock_xor hα.two_eq_zero,
    evalBlock_xor hα.two_eq_zero, hd]
  ring

theorem DifferByPowers.after_foldl {h y y' : Block} (hα : IsReductionRoot α) (hd : DifferByPowers α h y y')
    (blocks : List Block) : DifferByPowers α h (blocks.foldl (absorb h) y) (blocks.foldl (absorb h) y') := by
  induction blocks generalizing y y' with
  | nil => exact hd
  | cons blk blocks ih => exact ih (hd.after_absorb hα blk)

theorem DifferByPowers.after_fold {h y y' : Block} (hα : IsReductionRoot α) (hd : DifferByPowers α h y y')
    (field : List Byte) : DifferByPowers α h (fold y h field) (fold y' h field) := by
  rw [fold_eq_foldl_absorb, fold_eq_foldl_absorb]
  exact hd.after_foldl hα _

/-- A block with one flipped bit changes the accumulator by that bit's power of x, times H. -/
theorem differByPowers_absorb_twoPow (hα : IsReductionRoot α) (h y blk : Block) {p : Nat} (hp : p < 128) :
    DifferByPowers α h (absorb h y blk) (absorb h y (blk ^^^ BitVec.twoPow 128 p)) := by
  refine ⟨127 - p, 1, ?_⟩
  rw [absorb, absorb, evalBlock_gfMul hα, evalBlock_gfMul hα, ← BitVec.xor_assoc,
    evalBlock_xor hα.two_eq_zero _ (BitVec.twoPow _ _), evalBlock_twoPow α hp]
  ring

theorem differByPowers_foldl_flipBit (hα : IsReductionRoot α) (h y : Block) {blocks : List Block} {j p : Nat}
    (hj : j < blocks.length) (hp : p < 128) :
    DifferByPowers α h (blocks.foldl (absorb h) y) ((flipBit blocks j p).foldl (absorb h) y) := by
  induction blocks generalizing y j with
  | nil => exact absurd hj (Nat.not_lt_zero j)
  | cons blk blocks ih =>
    cases j with
    | zero => exact (differByPowers_absorb_twoPow hα h y blk hp).after_foldl hα blocks
    | succ j => exact ih (absorb h y blk) (Nat.lt_of_succ_lt_succ hj)

/-- A field with one flipped bit changes the accumulator by a power of x times a power of H (R94). -/
theorem differByPowers_fold_flipBit (hα : IsReductionRoot α) (h y : Block) {field : List Byte} {k b : Nat}
    (hk : k < field.length) (hb : b < 8) : DifferByPowers α h (fold y h field) (fold y h (flipBit field k b)) := by
  rw [fold_eq_foldl_absorb, fold_eq_foldl_absorb, paddedChunks_flipBit hk hb]
  exact differByPowers_foldl_flipBit hα h y (div_lt_paddedChunks_length hk) (by omega)

end

/-- Accumulators that differ so are different, unless H is zero. -/
theorem DifferByPowers.ne {h y y' : Block} (hh : h ≠ 0#128)
    (hd : DifferByPowers (AdjoinRoot.root fieldPoly) h y y') : y' ≠ y := by
  rintro rfl
  obtain ⟨i, m, hd⟩ := hd
  have hzero := (isReductionRoot_root.isUnit.pow i).mul_right_eq_zero.mp (left_eq_add.mp hd)
  exact evalBlock_root_pow_ne_zero degree_fieldPoly separable_fieldPoly.squarefree hh m hzero

theorem gHash_flipBit_data_ne {h : Block} (hh : h ≠ 0#128) (aad : List Byte) {ct : List Byte} {k b : Nat}
    (hk : k < ct.length) (hb : b < 8) : gHash h aad (flipBit ct k b) ≠ gHash h aad ct := by
  rw [gHash, gHash, flipBit_length]
  exact ((differByPowers_fold_flipBit isReductionRoot_root h _ hk hb).after_fold isReductionRoot_root _).ne hh

theorem gHash_flipBit_aad_ne {h : Block} (hh : h ≠ 0#128) {aad : List Byte} (ct : List Byte) {k b : Nat}
    (hk : k < aad.length) (hb : b < 8) : gHash h (flipBit aad k b) ct ≠ gHash h aad ct := by
  rw [gHash, gHash, flipBit_length]
  exact (((differByPowers_fold_flipBit isReductionRoot_root h _ hk hb).after_fold isReductionRoot_root _).after_fold
    isReductionRoot_root _).ne hh

end Sys2Proof.Machine
end

section
/-!
The statements of 46_aead.md: AEADENC seals (O42), AEADDEC verifies before it releases (O43), the comparison (O44), the round trip
(O45), what is rejected (O46, O47), and what AEADENC reads (O48). All but O44 rest on one equation per command, `exec_aeadenc_eq`
and `exec_aeaddec_eq`, and on the converse, that a command which ends with ERR = 0 has passed its checks.
-/

namespace Sys2Proof.Machine

open Sys2Proof.Spec (expectedTag)

/-! ### The comparison of tags -/

/-- Differences that are or-ed together give zero exactly when each of them is zero. -/
theorem foldl_or_eq_zero_iff (f : Nat → Byte) (ks : List Nat) (d : Byte) :
    ks.foldl (fun d k => d ||| f k) d = 0#8 ↔ d = 0#8 ∧ ∀ k ∈ ks, f k = 0#8 := by
  induction ks generalizing d with
  | nil => simp
  | cons k ks ih => rw [List.foldl_cons, ih, BitVec.or_eq_zero_iff, List.forall_mem_cons, and_assoc]

/-- Settles O44: the accumulated difference is zero exactly when each byte's difference is. -/
theorem tagComparisonCoversAllBytes : Obligations.TagComparisonCoversAllBytes := by
  intro t u
  rw [tagEqual, beq_iff_eq, foldl_or_eq_zero_iff]
  simp

theorem tagEqual_iff (t u : Block) : tagEqual t u = true ↔ t = u :=
  (tagComparisonCoversAllBytes t u).trans ⟨block_ext_bytes, fun h _ _ => h ▸ rfl⟩

/-! ### The register checks -/

/-- The register checks AEADENC and AEADDEC begin with (R116, R119). -/
def State.aeadChecks (s : State) (o : Out) : Out :=
  s.raiseIf (!s.rkv) .noKeySchedule <|
  s.raiseIf (decide (s.noncelen ≠ Config.nonceBytes)) .invalidNonceLength <|
  s.raiseIf (decide (s.outcap < s.dlen)) .bufferLengthMismatch o

/-- The register checks pass, and the operands' ranges exist. -/
abbrev State.AeadReady (s : State) : Prop :=
  s.rkv = true ∧ s.noncelen = 12#32 ∧ s.dlen ≤ s.outcap ∧ s.LengthsLegal

theorem aeadChecks_pass {s : State} (h : s.AeadReady) (o : Out) : s.aeadChecks o = o := by
  obtain ⟨hrkv, hnonce, hcap, -⟩ := h
  rw [State.aeadChecks, raiseIf_neg (by simp [hrkv]), raiseIf_neg (by simp [hnonce, Config.nonceBytes]),
    raiseIf_neg (by simpa using hcap)]

/-- Both commands begin with the register checks. -/
theorem exec_aead_eq_aeadChecks {i : Instr} (hi : i = .aeadenc ∨ i = .aeaddec) (s : State) :
    ∃ o, exec i s = s.aeadChecks o := by
  obtain rfl | rfl := hi <;> exact ⟨_, rfl⟩

/-- With a schedule but another NONCELEN than 12 both commands raise InvalidNonceLength (R137). -/
theorem exec_aead_invalidNonceLength {i : Instr} (hi : i = .aeadenc ∨ i = .aeaddec) {s : State} (hrkv : s.rkv = true)
    (hnonce : s.noncelen ≠ 12#32) : exec i s = .next (s.raise .invalidNonceLength) := by
  obtain ⟨o, ho⟩ := exec_aead_eq_aeadChecks hi s
  rw [ho, State.aeadChecks, raiseIf_neg (by simp [hrkv]), raiseIf_pos (by simp [hnonce, Config.nonceBytes])]

/-- With a schedule and a nonce of 12 bytes but too small an OUTCAP both commands raise BufferLengthMismatch (R137). -/
theorem exec_aead_bufferLengthMismatch {i : Instr} (hi : i = .aeadenc ∨ i = .aeaddec) {s : State} (hrkv : s.rkv = true)
    (hnonce : s.noncelen = 12#32) (hcap : s.outcap < s.dlen) : exec i s = .next (s.raise .bufferLengthMismatch) := by
  obtain ⟨o, ho⟩ := exec_aead_eq_aeadChecks hi s
  rw [ho, State.aeadChecks, raiseIf_neg (by simp [hrkv]), raiseIf_neg (by simp [hnonce, Config.nonceBytes]),
    raiseIf_pos (decide_eq_true hcap)]

/-! ### What the two commands do -/

/-- The output of the message's pass over the data, which both commands write (R115, R118). -/
def State.messagePass (s : State) : List Byte := ctrXor s.rk (s.nonce ++ 2#32) s.dataBytes

@[simp] theorem messagePass_length (s : State) : s.messagePass.length = s.dlen.toNat := by
  rw [State.messagePass, ctrXor_length, dataBytes_length]

/-- Byte k of DOUTBUF after the pass has been written to it (R109, R113). -/
theorem read_withOutput_messagePass {s : State} (hwf : s.doutbuf.wf = true) (k : Nat) :
    (s.withOutput s.messagePass).doutbuf.read k = if k < s.dlen.toNat then
        s.dinbuf.read k ^^^ blockByte (blockE s.rk (s.nonce ++ BitVec.ofNat 32 (2 + k / 16))) (k % 16)
      else s.doutbuf.read k := by
  have hread := read_withOutput_ctrXor hwf (s.nonce ++ 2#32) k
  rwa [counterAt_append, ← BitVec.ofNat_add] at hread

/-- The pass read back from DOUTBUF (R47, R48). -/
theorem readBytes_withOutput_messagePass {s : State} (hwf : s.doutbuf.wf = true) :
    (s.withOutput s.messagePass).doutbuf.readBytes 0 s.dlen.toNat = s.messagePass := by
  have hback := readBytes_writeBytes hwf s.messagePass
  rwa [messagePass_length] at hback

/-- The tag over the ciphertext AEADENC writes (R115). -/
def State.sealTag (s : State) : Block :=
  gHash (blockE s.rk 0#128) s.aadBytes s.messagePass ^^^ blockE s.rk (s.nonce ++ 1#32)

/-- Past its register checks AEADENC writes DOUTBUF and TAG (R116). -/
theorem exec_aeadenc_eq {s : State} (h : s.AeadReady) :
    exec .aeadenc s = .next ((s.withOutput s.messagePass).setTag s.sealTag).succeed := by
  have ⟨_, _, _, haad, hdata⟩ := h
  refine (aeadChecks_pass h _).trans ?_
  rw [readAad_eq haad, readData_eq hdata, writeData_eq (by simpa using hdata), sealMessage_eq]
  rfl

/-- The message opens where TAG is the tag recomputed over the data (R118). -/
theorem openMessage_eq (s : State) : openMessage s.rk s.nonce s.aadBytes s.dataBytes s.tag =
    if s.tag = expectedTag s then some s.messagePass else none := by
  have htag : tagOver s.rk s.nonce s.aadBytes s.dataBytes = expectedTag s := rfl
  simp only [openMessage, tagEqual_iff, inc32_j0, htag, eq_comm (a := s.tag), State.messagePass]

/-- Past its register checks AEADDEC writes DOUTBUF where TAG verifies, and else raises AuthenticationFailure (R119, R120). -/
theorem exec_aeaddec_eq {s : State} (h : s.AeadReady) : exec .aeaddec s =
    if s.tag = expectedTag s then .next (s.withOutput s.messagePass).succeed
    else .next (s.raise .authenticationFailure) := by
  have ⟨_, _, _, haad, hdata⟩ := h
  refine (aeadChecks_pass h _).trans ?_
  rw [readAad_eq haad, readData_eq hdata, openMessage_eq]
  by_cases htag : s.tag = expectedTag s
  · rw [if_pos htag, if_pos htag]
    exact writeData_eq (by simpa using hdata) _
  · rw [if_neg htag, if_neg htag]

theorem exec_aeaddec_verified {s : State} (h : s.AeadReady) (htag : s.tag = expectedTag s) :
    exec .aeaddec s = .next (s.withOutput s.messagePass).succeed :=
  (exec_aeaddec_eq h).trans (if_pos htag)

theorem exec_aeaddec_rejected {s : State} (h : s.AeadReady) (htag : s.tag ≠ expectedTag s) :
    exec .aeaddec s = .next (s.raise .authenticationFailure) :=
  (exec_aeaddec_eq h).trans (if_neg htag)

/-- AEADENC ends with ERR = 0 only where its register checks pass, and has then sealed the message. -/
theorem aeadReady_of_aeadenc {s t : State} (h : exec .aeadenc s = .next t) (herr : t.err = 0#4) :
    s.AeadReady ∧ t = ((s.withOutput s.messagePass).setTag s.sealTag).succeed := by
  obtain ⟨hrkv, hnonce, hcap, hlen, -⟩ := exec_aeadenc_success h herr
  have hready : s.AeadReady := ⟨hrkv, hnonce, hcap, hlen⟩
  cases (exec_aeadenc_eq hready).symm.trans h
  exact ⟨hready, rfl⟩

/-- AEADDEC ends with ERR = 0 only where its register checks pass and TAG verifies. -/
theorem aeadReady_of_aeaddec {s t : State} (h : exec .aeaddec s = .next t) (herr : t.err = 0#4) :
    s.AeadReady ∧ s.tag = expectedTag s := by
  obtain ⟨_, rfl⟩ | ⟨_, _, rfl⟩ | ⟨_, _, _, rfl⟩ | ⟨_, _, _, _, _, rfl⟩ | ⟨hrkv, hnonce, hcap, hlen, -⟩ :=
    execAeaddec_next h
  · exact absurd herr (raise_err_ne_zero s _)
  · exact absurd herr (raise_err_ne_zero s _)
  · exact absurd herr (raise_err_ne_zero s _)
  · exact absurd herr (raise_err_ne_zero s _)
  · have hready : s.AeadReady := ⟨hrkv, hnonce, BitVec.not_lt.mp hcap, hlen⟩
    refine ⟨hready, by_contra fun htag => ?_⟩
    cases (exec_aeaddec_rejected hready htag).symm.trans h
    exact raise_err_ne_zero s _ herr

/-! ### The statements on the two commands -/

/-- Settles O42: past its checks AEADENC writes the pass and the tag over it. -/
theorem aeadencSealsTheMessage : Obligations.AeadencSealsTheMessage := by
  refine ⟨decode_encode .aeadenc, fun s => ⟨fun hrkv hnonce hcap hlen hwf => ?_, ?_, ?_, ?_⟩⟩
  · refine ⟨(s.withOutput s.messagePass).doutbuf, s.sealTag, exec_aeadenc_eq ⟨hrkv, hnonce, hcap, hlen⟩,
      read_withOutput_messagePass hwf, ?_⟩
    rw [readBytes_withOutput_messagePass hwf]
    rfl
  · exact exec_noKeySchedule (.inr (.inr (.inl rfl)))
  · exact exec_aead_invalidNonceLength (.inl rfl)
  · exact exec_aead_bufferLengthMismatch (.inl rfl)

/-- Settles O43: past its checks AEADDEC writes the pass where TAG verifies. -/
theorem aeaddecVerifiesBeforeRelease : Obligations.AeaddecVerifiesBeforeRelease := by
  refine ⟨decode_encode .aeaddec, fun s => ⟨fun hrkv hnonce hcap hlen hwf => ?_, ?_, ?_, ?_⟩⟩
  · have hready : s.AeadReady := ⟨hrkv, hnonce, hcap, hlen⟩
    exact ⟨fun htag => ⟨_, exec_aeaddec_verified hready htag, read_withOutput_messagePass hwf⟩,
      exec_aeaddec_rejected hready⟩
  · exact exec_noKeySchedule (.inr (.inr (.inr rfl)))
  · exact exec_aead_invalidNonceLength (.inr rfl)
  · exact exec_aead_bufferLengthMismatch (.inr rfl)

/-- AEADDEC of a sealed message, in any state with its schedule, nonce, AAD, ciphertext and tag: the tag verifies, and the second
pass gives the data back (R122). -/
theorem exec_aeaddec_sealed {s r : State} (h : r.AeadReady) (hrk : r.rk = s.rk) (hnonce : r.nonce = s.nonce)
    (haad : r.aadBytes = s.aadBytes) (hdata : r.dataBytes = s.messagePass) (htag : r.tag = s.sealTag) :
    exec .aeaddec r = .next (r.withOutput s.dataBytes).succeed := by
  have hverified : r.tag = expectedTag r := by
    rw [htag, expectedTag, hrk, hnonce, haad, hdata, State.sealTag]
  have hpass : r.messagePass = s.dataBytes := by
    rw [State.messagePass, hrk, hnonce, hdata, State.messagePass, ctrXor_ctrXor]
  rw [exec_aeaddec_verified h hverified, hpass]

/-- Settles O45: what AEADENC left is the sealed message. -/
theorem decryptOfEncryptIsThePlaintext : Obligations.DecryptOfEncryptIsThePlaintext := by
  intro s t m hs h herr hm
  obtain ⟨hready, rfl⟩ := aeadReady_of_aeadenc h herr
  obtain ⟨_, _, _, _, _, hwf, _⟩ := hs
  have hct := (readBytes_congr hm).trans (readBytes_withOutput_messagePass hwf)
  refine ⟨_, exec_aeaddec_sealed (s := s) hready rfl rfl rfl hct rfl, rfl, fun k hk => ?_⟩
  refine (read_writeBytes (writeBytes_wf hwf 0 s.messagePass) 0 s.dataBytes k).trans ?_
  rw [if_pos (by simpa using hk), State.dataBytes, Nat.sub_zero, getD_readBytes_zero, if_pos hk]

/-- Settles O46: the tag AEADDEC recomputes does not depend on TAG. -/
theorem wrongTagIsRejected : Obligations.WrongTagIsRejected := by
  intro s t g h herr hg
  obtain ⟨hready, htag⟩ := aeadReady_of_aeaddec h herr
  exact exec_aeaddec_rejected (s := { s with tag := g }) hready (htag ▸ hg)

/-- Where a tag verifies, a message with another accumulator under the same tag is rejected: the tag mask is the same. -/
theorem exec_aeaddec_rejected_of_gHash_ne {s r : State} (h : r.AeadReady) (hverified : s.tag = expectedTag s)
    (hrk : r.rk = s.rk) (hnonce : r.nonce = s.nonce) (htag : r.tag = s.tag)
    (hne : gHash (blockE s.rk 0#128) r.aadBytes r.dataBytes ≠ gHash (blockE s.rk 0#128) s.aadBytes s.dataBytes) :
    exec .aeaddec r = .next (r.raise .authenticationFailure) := by
  refine exec_aeaddec_rejected h fun hr => hne ?_
  rw [htag, hverified, expectedTag, expectedTag, hrk, hnonce, BitVec.xor_left_inj] at hr
  exact hr.symm

/-- Settles O47: the accumulator changes with the bit. -/
theorem flippedBitIsRejected : Obligations.FlippedBitIsRejected := by
  intro s t k b hs h herr hh hb
  obtain ⟨hready, hverified⟩ := aeadReady_of_aeaddec h herr
  obtain ⟨_, _, _, ⟨hwfAad, _⟩, ⟨hwfData, _⟩, _⟩ := hs
  refine ⟨fun hk => ?data, fun hk => ?aad⟩
  case data =>
    refine exec_aeaddec_rejected_of_gHash_ne (r := { s with dinbuf := _ }) hready hverified rfl rfl rfl ?_
    rw [State.dataBytes, readBytes_write_flip hwfData]
    exact gHash_flipBit_data_ne hh s.aadBytes (by simpa using hk) hb
  case aad =>
    refine exec_aeaddec_rejected_of_gHash_ne (r := { s with aadbuf := _ }) hready hverified rfl rfl rfl ?_
    rw [State.aadBytes, readBytes_write_flip hwfAad]
    exact gHash_flipBit_aad_ne hh s.dataBytes (by simpa using hk) hb

/-- Settles O48: each byte of the pass, and the tag over it, are given by the operands alone. -/
theorem aeadencDependsOnItsOperandsAlone : Obligations.AeadencDependsOnItsOperandsAlone := by
  intro s s' t t' hwf hwf' h h' herr herr' hrk hnonce haadlen hdlen haad hdata
  obtain ⟨-, rfl⟩ := aeadReady_of_aeadenc h herr
  obtain ⟨-, rfl⟩ := aeadReady_of_aeadenc h' herr'
  have haadBytes : s.aadBytes = s'.aadBytes := by
    rw [State.aadBytes, State.aadBytes, ← haadlen, readBytes_congr haad]
  have hdataBytes : s.dataBytes = s'.dataBytes := by
    rw [State.dataBytes, State.dataBytes, ← hdlen, readBytes_congr hdata]
  have hpass : s.messagePass = s'.messagePass := by
    rw [State.messagePass, State.messagePass, hrk, hnonce, hdataBytes]
  constructor
  · show s.sealTag = s'.sealTag
    rw [State.sealTag, State.sealTag, hrk, hnonce, haadBytes, hpass]
  · intro k hk
    have hread := read_withOutput_messagePass hwf k
    have hread' := read_withOutput_messagePass hwf' k
    rw [if_pos hk, hrk, hnonce, hdata k hk] at hread
    rw [← hdlen, if_pos hk] at hread'
    exact hread.trans hread'.symm

end Sys2Proof.Machine
end

section
/-!
The statements of 60_exceptions.md: what a failing command changes (O19), the code each word written to CMD ends with (O20), and a
failed command issued again (O22).
-/

namespace Sys2Proof.Machine

open Sys2Proof.Spec (expectedTag outcomeCode)

/-! ### A failing command -/

/-- The only end of a command that leaves a code other than that of success is the error exit (R135). -/
theorem exec_failing {i : Instr} {s t : State} (h : exec i s = .next t) (herr : t.err ≠ 0#4) : ∃ e, t = s.raise e := by
  cases exec_next h with
  | raised _ e => exact ⟨e, rfl⟩
  | schedule => exact absurd (succeed_err _) herr
  | result => exact absurd (succeed_err _) herr
  | output => exact absurd (succeed_err _) herr
  | outputTag => exact absurd (succeed_err _) herr

theorem issue_failing {w : Word} {s t : State} (h : issue w s = .next t) (herr : t.err ≠ 0#4) : ∃ e, t = s.raise e := by
  obtain ⟨i, _, hi⟩ | ⟨_, _, ht⟩ := issue_next h
  · exact exec_failing hi herr
  · exact ⟨.illegalCommand, ht⟩

/-- Settles O19: a word that ends with an error code has taken the error exit, which writes STATUS.ERR alone. -/
theorem failingCommandChangesOnlyErr : Obligations.FailingCommandChangesOnlyErr := by
  intro w s t h herr
  obtain ⟨e, rfl⟩ := issue_failing h herr
  rfl

/-- What a word written to CMD does is independent of the code that stood before (R138). -/
theorem issue_setErr (w : Word) (s : State) (c : BitVec 4) : issue w (s.setErr c) = issue w s := by
  cases hd : decode w with
  | ok i =>
    rw [issue_ok hd, issue_ok hd]
    exact noCommandReadsErr i s c
  | error x => exact (issue_error hd (s.setErr c)).trans (issue_error hd s).symm

/-- Settles O22: the state a failed command left differs in STATUS.ERR alone, which no command reads. -/
theorem retryFailsTheSameWay : Obligations.RetryFailsTheSameWay := by
  intro w s t h herr
  obtain ⟨e, rfl⟩ := issue_failing h herr
  exact (issue_setErr w s e.code).trans h

/-! ### The outcome codes -/

theorem outcomeCode_keyexp (s : State) : outcomeCode (encode .keyexp) s = if s.keylen ≠ 16#32 then 1#4 else 0#4 := rfl

theorem outcomeCode_blkenc (s : State) : outcomeCode (encode .blkenc) s = if s.rkv = false then 5#4 else 0#4 := rfl

theorem outcomeCode_gfmul (s : State) : outcomeCode (encode .gfmul) s = 0#4 := rfl

theorem outcomeCode_ghash (s : State) : outcomeCode (encode .ghash) s = 0#4 := rfl

theorem outcomeCode_ctrxor (s : State) : outcomeCode (encode .ctrxor) s =
    if s.rkv = false then 5#4 else if s.outcap < s.dlen then 3#4 else 0#4 := rfl

theorem outcomeCode_aeadenc (s : State) : outcomeCode (encode .aeadenc) s =
    if s.rkv = false then 5#4 else if s.noncelen ≠ 12#32 then 2#4 else if s.outcap < s.dlen then 3#4 else 0#4 := rfl

theorem outcomeCode_aeaddec (s : State) : outcomeCode (encode .aeaddec) s =
    if s.rkv = false then 5#4 else if s.noncelen ≠ 12#32 then 2#4 else if s.outcap < s.dlen then 3#4
    else if expectedTag s ≠ s.tag then 4#4 else 0#4 := rfl

/-- A word that encodes no command has the code of IllegalCommand (R131, R182). -/
theorem outcomeCode_illegal {w : Word} {x : IllegalWord} (h : decode w = .error x) (s : State) : outcomeCode w s = 6#4 := by
  have hw (i : Instr) : w ≠ encode i := fun hi => by simp [decode_eq_ok_iff.mpr hi] at h
  have h1 : w ≠ 1#32 := hw .keyexp
  have h2 : w ≠ 2#32 := hw .blkenc
  have h3 : w ≠ 3#32 := hw .gfmul
  have h4 : w ≠ 4#32 := hw .ghash
  have h5 : w ≠ 5#32 := hw .ctrxor
  have h6 : w ≠ 6#32 := hw .aeadenc
  have h7 : w ≠ 7#32 := hw .aeaddec
  rw [outcomeCode, if_neg h1, if_neg h2, if_neg h3, if_neg h4, if_neg h5, if_neg h6, if_neg h7]

/-- Each command checks its error conditions in the order of R137. -/
theorem exec_err {i : Instr} {s t : State} (h : exec i s = .next t) : t.err = outcomeCode (encode i) s := by
  cases i with
  | keyexp =>
    rw [outcomeCode_keyexp]
    obtain ⟨hlen, rfl⟩ | ⟨hlen, rfl⟩ := execKeyexp_next h
    · simp [hlen, Err.code]
    · simp [hlen, okCode]
  | blkenc =>
    rw [outcomeCode_blkenc]
    obtain ⟨hrkv, rfl⟩ | ⟨hrkv, rfl⟩ := execBlkenc_next h
    · simp [hrkv, Err.code]
    · simp [hrkv, okCode]
  | gfmul =>
    obtain rfl := execGfmul_next h
    exact succeed_err _
  | ghash =>
    obtain ⟨-, rfl⟩ := execGhash_next h
    exact succeed_err _
  | ctrxor =>
    rw [outcomeCode_ctrxor]
    obtain ⟨hrkv, rfl⟩ | ⟨hrkv, hcap, rfl⟩ | ⟨hrkv, hcap, _, _, rfl⟩ := execCtrxor_next h
    · simp [hrkv, Err.code]
    · simp [hrkv, hcap, Err.code]
    · simp [hrkv, hcap, okCode]
  | aeadenc =>
    rw [outcomeCode_aeadenc]
    obtain ⟨hrkv, rfl⟩ | ⟨hrkv, hnonce, rfl⟩ | ⟨hrkv, hnonce, hcap, rfl⟩ | ⟨hrkv, hnonce, hcap, _, _, rfl⟩ :=
      execAeadenc_next h
    · simp [hrkv, Err.code]
    · simp [hrkv, hnonce, Err.code]
    · simp [hrkv, hnonce, hcap, Err.code]
    · simp [hrkv, hnonce, hcap, okCode]
  | aeaddec =>
    rw [outcomeCode_aeaddec]
    obtain ⟨hrkv, rfl⟩ | ⟨hrkv, hnonce, rfl⟩ | ⟨hrkv, hnonce, hcap, rfl⟩ | ⟨hrkv, hnonce, hcap, _, hopen, rfl⟩ |
      ⟨hrkv, hnonce, hcap, _, _, hopen, _, rfl⟩ := execAeaddec_next h
    · simp [hrkv, Err.code]
    · simp [hrkv, hnonce, Err.code]
    · simp [hrkv, hnonce, hcap, Err.code]
    · have htag : expectedTag s ≠ s.tag := fun htag => by simp [openMessage_eq, htag] at hopen
      simp [hrkv, hnonce, hcap, htag, Err.code]
    · have htag : expectedTag s = s.tag := by
        by_contra htag
        simp [openMessage_eq, Ne.symm htag] at hopen
      simp [hrkv, hnonce, hcap, htag, okCode]

theorem issue_err {w : Word} {s t : State} (h : issue w s = .next t) : t.err = outcomeCode w s := by
  obtain ⟨i, hi, hexec⟩ | ⟨x, hx, rfl⟩ := issue_next h
  · rw [eq_encode_of_decode hi]
    exact exec_err hexec
  · exact (outcomeCode_illegal hx s).symm

/-- Settles O20: in a legal state every word is answered, with the code of the first check that fails. -/
theorem outcomeCodeIsTheFirstInPriority : Obligations.OutcomeCodeIsTheFirstInPriority := by
  intro w s hs
  obtain ⟨_, haad, hdata, _⟩ := hs
  obtain ⟨t, ht⟩ := issue_answers ⟨haad, hdata⟩ w
  exact ⟨t, ht, issue_err ht⟩

end Sys2Proof.Machine
end
